-- ==== Sys2Proof/Word.lean ====
section
/-! DEFINITION. The fixed-width words of the block: bytes, the 16-bit operand fields and the 72-bit request word
(spec/00_scope.md R10, spec/30_encoding.md R81). Everything else the spec computes with is a mathematical integer. -/

namespace Sys2Proof

/-- A byte: an integer in 0..255 (R10). -/
abbrev Byte := BitVec 8

/-- One 16-bit operand field of a request word, and the 16-bit producer response (R81, R89). -/
abbrev Half := BitVec 16

/-- The 72-bit request word; bit 71 is the most significant bit (R81). -/
abbrev RequestWord := BitVec 72

end Sys2Proof
end

