-- ==== Sys2Proof/Syntax.lean ====
section
/-! DEFINITION. The sixteen operations of spec/opcode_table.json as an abstract data type (spec/30_encoding.md R80,
R82). Operands are mathematical integers, as R80 and decision D17 say; a duration is a natural number (R160). -/

namespace Sys2Proof

/-- An operation presented at one of the block's interfaces (R80). -/
inductive Instr where
  /-- `RESET`, class S: the hardware reset (R134). -/
  | reset
  /-- `SET(a, v)`, class P (R110). -/
  | set (a v : Int)
  /-- `GET(a)`, class P (R111). -/
  | get (a : Int)
  /-- `SET_ALL(v)`, class P (R112). -/
  | setAll (v : Int)
  /-- `BLEND_ONE(a, r, g, b)`, class P (R113). -/
  | blendOne (a r g b : Int)
  /-- `BLEND_ALL(r, g, b)`, class P (R114). -/
  | blendAll (r g b : Int)
  /-- `TICK`, class F (R130). -/
  | tick
  /-- `TIMER_EXPIRED`, class F (R131). -/
  | timerExpired
  /-- `TX_COMPLETE`, class F (R132). -/
  | txComplete
  /-- `ARM(d)`, class T (R160). -/
  | arm (d : Nat)
  /-- `DISARM`, class T (R161). -/
  | disarm
  /-- `SET_RAW_LOW`, class L (R180). -/
  | setRawLow
  /-- `SET_RAW_HIGH`, class L (R181). -/
  | setRawHigh
  /-- `SET_UART`, class L (R182). -/
  | setUart
  /-- `TRANSMIT`, class L (R183). -/
  | transmit
  /-- `ABORT`, class L (R184). -/
  | abort
  deriving DecidableEq, Repr

end Sys2Proof
end

