-- ==== Sys2Proof/WellFormed.lean ====
section
/-! DEFINITION. Which operations a request word can present (spec/30_encoding.md R83): every operand fits its 16-bit
field. An operand outside the field is still an operation of the block (spec/93_implementation_defined.md U18: "not
expressible on the port; the abstract operation takes any integer"), so `exec` has a meaning for it too. -/

namespace Sys2Proof

/-- The integer fits a 16-bit two's complement field: -32768..32767 (R83). -/
def fitsSigned (x : Int) : Bool := decide (-32768 ≤ x) && decide (x ≤ 32767)

/-- The natural number fits a 16-bit unsigned field: 0..65535 (R83). -/
def fitsUnsigned (d : Nat) : Bool := decide (d ≤ 65535)

/-- Every operand of the operation can be presented on the port (R83). -/
def Instr.wellFormed : Instr → Bool
  | .reset => true
  | .set a v => fitsSigned a && fitsSigned v
  | .get a => fitsSigned a
  | .setAll v => fitsSigned v
  | .blendOne a r g b => fitsSigned a && fitsSigned r && fitsSigned g && fitsSigned b
  | .blendAll r g b => fitsSigned r && fitsSigned g && fitsSigned b
  | .tick => true
  | .timerExpired => true
  | .txComplete => true
  | .arm d => fitsUnsigned d
  | .disarm => true
  | .setRawLow => true
  | .setRawHigh => true
  | .setUart => true
  | .transmit => true
  | .abort => true

end Sys2Proof
end

