-- ==== Sys2Proof/Decode.lean ====
section
/-! DEFINITION. The request word of spec/30_encoding.md R81 to R85 and R96: the decoder, total on every 72-bit word and
naming the reserved operation code it rejects, and the canonical encoder. Only `OPC` selects the operation; a field an
operation does not use is ignored on decode and zero in the canonical encoding (R81). -/

namespace Sys2Proof

/-- What the decoder answers: an operation, or `invalid` with the reserved operation code (R85). -/
inductive Decoded where
  | op (i : Instr)
  | invalid (opc : Byte)
  deriving DecidableEq, Repr

/-- `sext_16` (R10). -/
def sext16 (h : Half) : Int := h.toInt

/-- `zext_16` (R10). -/
def zext16 (h : Half) : Nat := h.toNat

/-- Field `OPC`, bits 71:64 (R81). -/
def fieldOpc (w : RequestWord) : Byte := w.extractLsb' 64 8

/-- Field `A`, bits 63:48 (R81). -/
def fieldA (w : RequestWord) : Half := w.extractLsb' 48 16

/-- Field `V0`, bits 47:32 (R81). -/
def fieldV0 (w : RequestWord) : Half := w.extractLsb' 32 16

/-- Field `V1`, bits 31:16 (R81). -/
def fieldV1 (w : RequestWord) : Half := w.extractLsb' 16 16

/-- Field `V2`, bits 15:0 (R81). -/
def fieldV2 (w : RequestWord) : Half := w.extractLsb' 0 16

/-- The operation a request word presents (R82, R83); every operation code R82 does not list is `invalid` (R85). -/
def decode (w : RequestWord) : Decoded :=
  match (fieldOpc w).toNat with
  | 0x00 => .op .reset
  | 0x10 => .op (.set (sext16 (fieldA w)) (sext16 (fieldV0 w)))
  | 0x11 => .op (.get (sext16 (fieldA w)))
  | 0x12 => .op (.setAll (sext16 (fieldV0 w)))
  | 0x13 => .op (.blendOne (sext16 (fieldA w)) (sext16 (fieldV0 w)) (sext16 (fieldV1 w)) (sext16 (fieldV2 w)))
  | 0x14 => .op (.blendAll (sext16 (fieldV0 w)) (sext16 (fieldV1 w)) (sext16 (fieldV2 w)))
  | 0x20 => .op .tick
  | 0x21 => .op .timerExpired
  | 0x22 => .op .txComplete
  | 0x30 => .op (.arm (zext16 (fieldV0 w)))
  | 0x31 => .op .disarm
  | 0x40 => .op .setRawLow
  | 0x41 => .op .setRawHigh
  | 0x42 => .op .setUart
  | 0x43 => .op .transmit
  | 0x44 => .op .abort
  | _ => .invalid (fieldOpc w)

/-- The five fields put side by side, `OPC` in the high bits (R81). -/
def assemble (opc : Byte) (a v0 v1 v2 : Half) : RequestWord := opc ++ a ++ v0 ++ v1 ++ v2

/-- The operation code of R82. -/
def Instr.opcode : Instr → Byte
  | .reset => 0x00
  | .set _ _ => 0x10
  | .get _ => 0x11
  | .setAll _ => 0x12
  | .blendOne _ _ _ _ => 0x13
  | .blendAll _ _ _ => 0x14
  | .tick => 0x20
  | .timerExpired => 0x21
  | .txComplete => 0x22
  | .arm _ => 0x30
  | .disarm => 0x31
  | .setRawLow => 0x40
  | .setRawHigh => 0x41
  | .setUart => 0x42
  | .transmit => 0x43
  | .abort => 0x44

/-- The 16-bit two's complement pattern of an integer operand (R83). -/
def half (x : Int) : Half := BitVec.ofInt 16 x

/-- The canonical request word of an operation: unused fields zero (R81). For an operation that is not well-formed
the operands are cut to 16 bits, and the word presents another operation. -/
def encode (i : Instr) : RequestWord :=
  match i with
  | .set a v => assemble i.opcode (half a) (half v) 0 0
  | .get a => assemble i.opcode (half a) 0 0 0
  | .setAll v => assemble i.opcode 0 (half v) 0 0
  | .blendOne a r g b => assemble i.opcode (half a) (half r) (half g) (half b)
  | .blendAll r g b => assemble i.opcode 0 (half r) (half g) (half b)
  | .arm d => assemble i.opcode 0 (BitVec.ofNat 16 d) 0 0
  | .reset => assemble i.opcode 0 0 0 0
  | .tick => assemble i.opcode 0 0 0 0
  | .timerExpired => assemble i.opcode 0 0 0 0
  | .txComplete => assemble i.opcode 0 0 0 0
  | .disarm => assemble i.opcode 0 0 0 0
  | .setRawLow => assemble i.opcode 0 0 0 0
  | .setRawHigh => assemble i.opcode 0 0 0 0
  | .setUart => assemble i.opcode 0 0 0 0
  | .transmit => assemble i.opcode 0 0 0 0
  | .abort => assemble i.opcode 0 0 0 0

/-- The request word whose low `nbits` bits are those of `w` and whose other bits are 0: a word numbered as
spec/opcode_table.json numbers it, with the bits the table leaves out zero. -/
def tableWord (nbits w : Nat) : RequestWord := BitVec.ofNat 72 (w % 2 ^ nbits)

/-- The operation the decoder reads from such a word; none where it answers `invalid`, and none for a word longer than
72 bits, since every request word has 72 (R96). -/
def decodeTableWord (nbits w : Nat) : Option Instr :=
  if nbits ≤ 72 then
    match decode (tableWord nbits w) with
    | .op i => some i
    | .invalid _ => none
  else none

end Sys2Proof
end

