-- ==== Sys2Proof/Machine/Agents.lean ====
section
/-! DEFINITION. Who may present what: the operation classes of spec/30_encoding.md R80, the calling contexts of
spec/60_exceptions.md R212, and the moves of the five agents of spec/00_scope.md R6 as one plain data type, one
constructor for each line a trace can hold (R93, R95). -/

namespace Sys2Proof.Machine

/-- The five operation classes, one per interface of the block (R80). -/
inductive OpClass where
  | system | producer | frame | timing | line
  deriving DecidableEq, Repr

/-- The class of an operation (R80). -/
def classOf : Instr → OpClass
  | .reset => .system
  | .set _ _ => .producer
  | .get _ => .producer
  | .setAll _ => .producer
  | .blendOne _ _ _ _ => .producer
  | .blendAll _ _ _ => .producer
  | .tick => .frame
  | .timerExpired => .frame
  | .txComplete => .frame
  | .arm _ => .timing
  | .disarm => .timing
  | .setRawLow => .line
  | .setRawHigh => .line
  | .setUart => .line
  | .transmit => .line
  | .abort => .line

/-- Where a request comes from (R212). -/
inductive Context where
  /-- The driver loop, "non-interrupt": the driver loop and the producer. -/
  | driverLoop
  /-- The timing-completion signal context: the timer agent. -/
  | timerSignal
  /-- The bulk-transmit-completion signal context: the transmitter agent. -/
  | transmitSignal
  /-- No context: the reset input, the test bench, injected spurious signals. -/
  | environment
  /-- The internal command ports of the two driver sub-blocks, for a test of a sub-block alone (R80). -/
  | commandPort
  deriving DecidableEq, Repr, Inhabited

/-- What a context may present as a request (R212). A signal context presents nothing on its own: it issues its signal
only through its agent's step `EXPIRE` or `TX_DONE`; a signal without that step is the environment's (R137). -/
def mayRequest (c : Context) (i : Instr) : Bool :=
  match c, classOf i with
  | .driverLoop, .producer => true
  | .driverLoop, .frame => decide (i = .tick)
  | .environment, .system => true
  | .environment, .frame => decide (i ≠ .tick)
  | .commandPort, .timing => true
  | .commandPort, .line => true
  | _, _ => false

/-- The context a request word is wired to (R212); a word that is `invalid` has none, and is presented by the
environment. -/
def homeContext (w : RequestWord) : Context :=
  match decode w with
  | .invalid _ => .environment
  | .op i =>
    match classOf i with
    | .system => .environment
    | .producer => .driverLoop
    | .frame => if i = .tick then .driverLoop else .environment
    | .timing => .commandPort
    | .line => .commandPort

/-- One step of one agent (R6, R93): a request word presented in a context, or an autonomous step (R95). -/
inductive Move where
  | request (c : Context) (w : RequestWord)
  /-- `ADVANCE(n)`, the environment (R165). -/
  | advance (n : Nat)
  /-- `EXPIRE`, the timer agent (R162). -/
  | expire
  /-- `TX_SLOT`, the transmitter agent (R185). -/
  | txSlot
  /-- `TX_DONE`, the transmitter agent (R186). -/
  | txDone
  deriving DecidableEq, Repr, Inhabited

/-- The move is a command at an internal port: no agent's move, only a test of a sub-block alone (R80). -/
def Move.internal : Move → Bool
  | .request c _ => decide (c = .commandPort)
  | .advance _ => false
  | .expire => false
  | .txSlot => false
  | .txDone => false

/-- The move presents the operation `i`. -/
def Move.presents (m : Move) (i : Instr) : Bool :=
  match m with
  | .request _ w => decide (decode w = .op i)
  | .advance _ => false
  | .expire => false
  | .txSlot => false
  | .txDone => false

/-- The move is a spurious signal: `TIMER_EXPIRED` or `TX_COMPLETE` without the agent's step (R137). -/
def Move.spurious (m : Move) : Bool := m.presents .timerExpired || m.presents .txComplete

end Sys2Proof.Machine
end

