-- ==== Sys2Proof/Config.lean ====
section
/-! DEFINITION. What an implementation fixes (spec/00_scope.md R7 to R9) and the free values. A constant with `opaque`
has no body: no proof can learn its value, so a claim about the model holds whatever it is. -/

namespace Sys2Proof

/-- `N_CH`, the number of channel bytes (R7). -/
def Config.nCh : Nat := 512
/-- `TB_LEN`, the length of the Transmit Buffer (R7). -/
def Config.tbLen : Nat := 513
/-- `ADDR_MIN` (R7). -/
def Config.addrMin : Nat := 1
/-- `ADDR_MAX` (R7). -/
def Config.addrMax : Nat := 512
/-- `VAL_MIN` (R7). -/
def Config.valMin : Int := 0
/-- `VAL_MAX` (R7). -/
def Config.valMax : Int := 255
/-- `START_CODE`, byte 0 of every frame (R7). -/
def Config.startCode : Byte := 0
/-- `T_BREAK_MIN_US` (R7). -/
def Config.tBreakMinUs : Nat := 88
/-- `T_MAB_MIN_US` (R7). -/
def Config.tMabMinUs : Nat := 8
/-- `BAUD`, bits per second (R7). -/
def Config.baud : Nat := 250000
/-- `DATA_BITS` (R7). -/
def Config.dataBits : Nat := 8
/-- `STOP_BITS` (R7); there is no parity bit. -/
def Config.stopBits : Nat := 2
/-- `T_BIT_US` (R8). -/
def Config.tBitUs : Nat := 1000000 / Config.baud
/-- `SLOT_BITS`, counting one start bit, which is general knowledge (R8, PRESUMED, log 16). -/
def Config.slotBits : Nat := 1 + Config.dataBits + Config.stopBits
/-- `T_SLOT_US` (R8). -/
def Config.tSlotUs : Nat := Config.slotBits * Config.tBitUs
/-- `T_DATA_MIN_US` (R8). -/
def Config.tDataMinUs : Nat := Config.tbLen * Config.tSlotUs
/-- `T_FRAME_MIN_US` (R8). -/
def Config.tFrameMinUs : Nat := Config.tBreakMinUs + Config.tMabMinUs + Config.tDataMinUs

/-- The parameters R9 leaves to the implementation. The break and the mark are kept as what they add to their minimum,
so that every value of this type is one R9 allows; `none` is infinity. -/
structure Params where
  /-- `T_BREAK_US - T_BREAK_MIN_US`. -/
  breakExtraUs : Nat
  /-- `T_MAB_US - T_MAB_MIN_US`. -/
  mabExtraUs : Nat
  /-- `J_TMR_US` (decision D12). -/
  jTmrUs : Option Nat
  /-- `T_STALL_US` (decision D11). -/
  tStallUs : Option Nat
  deriving DecidableEq, Repr, Inhabited

/-- `T_BREAK_US`, at least `T_BREAK_MIN_US` (R9). -/
def Params.tBreakUs (p : Params) : Nat := Config.tBreakMinUs + p.breakExtraUs

/-- `T_MAB_US`, at least `T_MAB_MIN_US` (R9). -/
def Params.tMabUs (p : Params) : Nat := Config.tMabMinUs + p.mabExtraUs

/-- The implementation's parameters (R9; DESIGN CHOICE, log 6). -/
opaque Config.params : Params

/-- Free value: byte `i` of the Transmit Buffer after draw `n` (R22, R134, decision D20; log 4). -/
opaque Config.freeByte : Nat → Nat → Byte

/-- Free value: the frame start time after draw `n` (R28, R134, decision D20; log 5). -/
opaque Config.freeTime : Nat → Nat

/-- Free value: the move the agents make at draw `n`, when no trace says it (R61, R207, decision D23; log 2). -/
opaque Config.freeMove : Nat → Machine.Move

end Sys2Proof
end

