-- ==== Sys2Proof/Machine/Memory.lean ====
section
/-! DEFINITION. Byte memory as a list of (address, byte) pairs in one canonical form: addresses strictly rising, and no
entry equal to 0, what an unlisted address reads as. Both buffers of spec/20_memory.md R50 are held so; 0 is the Channel
Buffer's reset contents (R21). Every access moves one byte (R53). -/

namespace Sys2Proof.Machine

/-- The bytes of one address space. -/
abbrev Memory := List Host.Cell

/-- The canonical form. -/
abbrev Memory.wf (m : Memory) : Prop :=
  m.Pairwise (fun x y => x.1 < y.1) ∧ ∀ c ∈ m, c.2 ≠ 0#8

/-- Every listed address lies in `lo..hi`. -/
abbrev Memory.within (lo hi : Nat) (m : Memory) : Prop := ∀ c ∈ m, lo ≤ c.1 ∧ c.1 ≤ hi

/-- `MemRead(·, a, 1)` (R10): an unlisted address reads 0. -/
def Memory.read : Memory → Nat → Byte
  | [], _ => 0#8
  | (a, b) :: m, k => if k = a then b else Memory.read m k

/-- Take the address out of the list. -/
def Memory.erase (m : Memory) (k : Nat) : Memory := m.filter (fun c => c.1 ≠ k)

/-- Put a pair at its place in the rising order. -/
def Memory.insert : Memory → Nat → Byte → Memory
  | [], k, v => [(k, v)]
  | (a, b) :: m, k, v => if k < a then (k, v) :: (a, b) :: m else (a, b) :: Memory.insert m k v

/-- `MemWrite(·, a, 1, v)` (R10), keeping the canonical form. -/
def Memory.write (m : Memory) (k : Nat) (v : Byte) : Memory :=
  if v = 0#8 then Memory.erase m k else Memory.insert (Memory.erase m k) k v

/-- The memory that holds `v` at the `n` addresses from `lo` on, and nothing else. -/
def Memory.fill (lo n : Nat) (v : Byte) : Memory :=
  if v = 0#8 then [] else (List.range' lo n).map (fun a => (a, v))

/-- The memory that holds `f i` at every address `i < n`, and nothing else. -/
def Memory.ofFn (n : Nat) (f : Nat → Byte) : Memory :=
  (List.range n).filterMap (fun i => if f i = 0#8 then none else some (i, f i))

/-- The entries whose address lies in `lo..hi`. -/
def Memory.restrict (lo hi : Nat) (m : Memory) : Memory :=
  m.filter (fun c => decide (lo ≤ c.1) && decide (c.1 ≤ hi))

end Sys2Proof.Machine
end

