-- ==== Sys2Proof/Machine/State.lean ====
section
/-! DEFINITION. The state of the block as spec/10_state.md R20 lists it, the model's own three fields beside it (the
response port, the trace still to be performed, the count of draws), the reasons a step can stop, and the state after
reset (R34). -/

namespace Sys2Proof.Machine

/-- The Frame State `FS` (R23). -/
inductive FrameState where
  | idle | brk | mark | data
  deriving DecidableEq, Repr

/-- The one-shot timer `TMR` (R25); the deadline is in microseconds. -/
inductive Timer where
  | disarmed
  | armed (deadline : Nat)
  deriving DecidableEq, Repr

/-- The line mode `LM`, the select of the multiplexer (R26). -/
inductive LineMode where
  | rawLow | rawHigh | uart
  deriving DecidableEq, Repr

/-- The bulk transmitter `TX` (R27): `i` in 0..513 is the index of the next byte to send, `tNext` the earliest time the
next slot may start or, at 513, completion may be signalled. -/
inductive Transmitter where
  | idle
  | busy (i : Fin 514) (tNext : Nat)
  deriving DecidableEq, Repr

/-- The causes `RECOVER` is entered with (R133, R203, R204). -/
inductive FaultCause where
  | unexpectedSignal | stalledFrame
  deriving DecidableEq, Repr

/-- An entry of the wire log `WIRE` (R30). -/
inductive WireEntry where
  | low (t : Nat)
  | high (t : Nat)
  | uartIdle (t : Nat)
  | slot (t i : Nat) (b : Byte)
  | done (t : Nat)
  | abort (t : Nat)
  deriving DecidableEq, Repr

/-- What a producer operation returns (R89). -/
inductive Response where
  | ok
  | value (b : Byte)
  | invalidAddress
  deriving DecidableEq, Repr

/-- The state of the block (R20); `response`, `trace` and `draws` are the model's own. -/
structure State where
  /-- Channel Buffer `CB[1..512]` (R21). -/
  cb : Memory
  /-- Transmit Buffer `TB[0..512]` (R22). -/
  tb : Memory
  /-- Frame State (R23). -/
  fs : FrameState
  /-- Fault Counter (R24). -/
  fc : Nat
  /-- Timer (R25). -/
  tmr : Timer
  /-- Line mode (R26). -/
  lm : LineMode
  /-- Bulk transmitter (R27). -/
  tx : Transmitter
  /-- Frame start time, microseconds (R28). -/
  fst : Nat
  /-- Abstract time, microseconds (R29). -/
  now : Nat
  /-- Wire log, ghost, oldest first (R30). -/
  wire : List WireEntry
  /-- Fault log, ghost, oldest first (R31). -/
  flog : List (FaultCause × FrameState)
  /-- The model's own: what the latest step returned to the producer, none if nothing (R89; log 3). -/
  response : Option Response
  /-- The model's own: the moves still to be performed, in order (R93; log 1). -/
  trace : List Move
  /-- The model's own: how many draws of free values have been made (log 2). -/
  draws : Nat
  deriving DecidableEq, Repr

/-- The reasons a step could end in a fault. There is none: the spec names nothing that stops the machine (R211 "Faults
never stop the machine", R217), so no step raises a fault, and that is safe (DEDUCED, log 17). -/
inductive Fault where
  deriving DecidableEq, Repr

/-- The reasons a step has no meaning. -/
inductive Refusal where
  /-- Raised by `exec`'s arm of an operation that has no meaning yet. Safe. -/
  | notModelled (mnemonic : String)
  /-- Raised by a request whose operation code R82 does not list: R85 "a model refuses it". Safe. -/
  | reservedOpcode (opc : Byte)
  /-- Raised by a request from a context that may not present the operation: R212, decision D30. Safe. -/
  | wrongContext
  /-- Raised by `TRANSMIT`, and by `TIMER_EXPIRED` in `Mark`, while the transmitter is busy: R183, decision D25. Safe. -/
  | transmitWhileBusy
  /-- Raised by an autonomous step of the trace whose enabling condition is false: R162, R165, R185, R186 (log 8). Safe. -/
  | notEnabled
  deriving DecidableEq, Repr

/-- What an index of the Transmit Buffer holds after draw `n`: a free value (R22, R134; log 4). -/
def drawnBuffer (n : Nat) : Memory := Memory.ofFn Config.tbLen (Config.freeByte n)

/-- The state right after reset (R34, R231): `TB` and `FST` are draw 0. -/
def State.reset : State where
  cb := []
  tb := drawnBuffer 0
  fs := .idle
  fc := 0
  tmr := .disarmed
  lm := .uart
  tx := .idle
  fst := Config.freeTime 0
  now := 0
  wire := []
  flog := []
  response := none
  trace := []
  draws := 1

end Sys2Proof.Machine
end

