-- ==== Sys2Proof/Machine/Flags.lean ====
section
/-! DEFINITION. What is derived from the state and has no storage of its own: the status bits `ARMED` and `BUSY`
(spec/10_state.md R33), and the numeric codes of the state and of the results (spec/30_encoding.md R86 to R89). -/

namespace Sys2Proof.Machine

/-- `ARMED = (TMR != Disarmed)` (R33). -/
def armed (s : State) : Bool :=
  match s.tmr with
  | .disarmed => false
  | .armed _ => true

/-- `BUSY = (TX != TxIdle)` (R33). -/
def busy (s : State) : Bool :=
  match s.tx with
  | .idle => false
  | .busy _ _ => true

/-- The 2-bit code of the Frame State (R86). -/
def frameStateCode : FrameState → BitVec 2
  | .idle => 0
  | .brk => 1
  | .mark => 2
  | .data => 3

/-- The 2-bit code of the line mode; code 3 is reserved and no mode has it (R87). -/
def lineModeCode : LineMode → BitVec 2
  | .rawLow => 0
  | .rawHigh => 1
  | .uart => 2

/-- Read a line-mode code of a state dump; the reserved code 3 is refused (R87, U10). -/
def lineModeOfCode (c : BitVec 2) : Option LineMode :=
  match c.toNat with
  | 0 => some .rawLow
  | 1 => some .rawHigh
  | 2 => some .uart
  | _ => none

/-- The four names of the error taxonomy (R200). -/
inductive ErrorName where
  | invalidAddress | outOfRangeValue | unexpectedSignal | stalledFrame
  deriving DecidableEq, Repr

/-- The numeric code of an error or fault; 0 means no error (R88). -/
def errorCode : Option ErrorName → Nat
  | none => 0
  | some .invalidAddress => 1
  | some .outOfRangeValue => 2
  | some .unexpectedSignal => 3
  | some .stalledFrame => 4

/-- The name of a recovered fault in the taxonomy (R203, R204). -/
def faultName : FaultCause → ErrorName
  | .unexpectedSignal => .unexpectedSignal
  | .stalledFrame => .stalledFrame

/-- The error a response reports (R201); a clamped value reports none (R202). -/
def responseError : Response → Option ErrorName
  | .ok => none
  | .value _ => none
  | .invalidAddress => some .invalidAddress

/-- The 16-bit response: `STATUS` in bits 15:8, `DATA` in bits 7:0 (R89). -/
def responseWord (r : Response) : Half :=
  match r with
  | .ok => (0 : Byte) ++ (0 : Byte)
  | .value b => (0 : Byte) ++ b
  | .invalidAddress => (1 : Byte) ++ (0 : Byte)

end Sys2Proof.Machine
end

