-- ==== Sys2Proof/Machine/Operands.lean ====
section
/-! DEFINITION. The checks and the arithmetic on abstract operands (spec/30_encoding.md R84, spec/40_producer_ops.md
R116). All of it is on mathematical integers; nothing wraps. -/

namespace Sys2Proof.Machine

/-- The address check: 1..512 (R51, R84 (1)). -/
def validAddress (a : Int) : Bool := decide ((Config.addrMin : Int) ≤ a) && decide (a ≤ (Config.addrMax : Int))

/-- `clamp8(v) = max(0, min(255, v))` as a byte (R10, R84 (2)). -/
def clamp8 (v : Int) : Byte := BitVec.ofInt 8 (max Config.valMin (min Config.valMax v))

/-- `(x + y + z) div 3` on three bytes (R116). -/
def average (x y z : Byte) : Byte := BitVec.ofNat 8 ((x.toNat + y.toNat + z.toNat) / 3)

/-- The intensity of a blend: each component clamped, then averaged (R113, decision D19). -/
def blend (r g b : Int) : Byte := average (clamp8 r) (clamp8 g) (clamp8 b)

/-- `d > bound`, where `none` is infinity. -/
def exceeds (d : Nat) (bound : Option Nat) : Bool :=
  match bound with
  | none => false
  | some t => decide (t < d)

/-- The index after `i`, for an `i` that is not yet 513 (R185). -/
def nextIndex (i : Fin 514) (h : i.val ≤ 512) : Fin 514 := ⟨i.val + 1, by omega⟩

end Sys2Proof.Machine
end

