-- ==== Sys2Proof/Machine/Ops.lean ====
section
/-! DEFINITION. The named operations over the buffers and the registers: the accesses of spec/20_memory.md, the commands
of the two driver sub-blocks (spec/42_timing_coordinator.md, spec/43_line_driver.md) as the frame-state machine issues
them inline, the fault entry `RECOVER` (spec/41_frame_state_machine.md R133), and what `RESET` does (R134). There is no
return from a fault (R210). -/

namespace Sys2Proof.Machine

/-- Go on with the next state of an outcome; a stop stays a stop. -/
def onNext (o : Host.Outcome State Fault Refusal) (k : State → Host.Outcome State Fault Refusal) :
    Host.Outcome State Fault Refusal :=
  match o with
  | .next s => k s
  | .fault r => .fault r
  | .refused r => .refused r

/-- Give the producer its response (R89). -/
def respond (r : Response) (s : State) : State := { s with response := some r }

/-- `CB[a]` (R10). -/
def readCb (s : State) (a : Nat) : Byte := s.cb.read a

/-- `CB[a] <- v` (R10). -/
def writeCb (a : Nat) (v : Byte) (s : State) : State := { s with cb := s.cb.write a v }

/-- `for a in 1..512: CB[a] <- v`, one atomic transition (R112, R57). -/
def fillCb (v : Byte) (s : State) : State := { s with cb := Memory.fill Config.addrMin Config.nCh v }

/-- A producer operation on one channel: the address check comes first, and an invalid address ends the operation with
`InvalidAddress` and no other effect (R84 (1), R201). -/
def atChannel (a : Int) (s : State) (k : Nat → State) : State :=
  if validAddress a then k a.toNat else respond .invalidAddress s

/-- The snapshot copy: `TB[0] <- 0` and `TB[i] <- CB[i]` for every `i` in 1..512, atomic (R59, R130 (a)). An index that
`TB` does not list reads 0, which is the start code. -/
def takeSnapshot (s : State) : State :=
  { s with tb := Memory.restrict Config.addrMin Config.addrMax s.cb }

/-- `TB[i]` (R10). -/
def readTb (s : State) (i : Nat) : Byte := s.tb.read i

/-- `emit(e)` (R10). -/
def emit (e : WireEntry) (s : State) : State := { s with wire := s.wire ++ [e] }

/-- `log_fault(c, FS)` (R10, R133). -/
def logFault (c : FaultCause) (s : State) : State := { s with flog := s.flog ++ [(c, s.fs)] }

/-- `FS <- f` (R10). -/
def enterFrame (f : FrameState) (s : State) : State := { s with fs := f }

/-- `FST <- now` (R130). -/
def stampFrame (s : State) : State := { s with fst := s.now }

/-- `ARM(d)` (R160). -/
def armTimer (d : Nat) (s : State) : State := { s with tmr := .armed (s.now + d) }

/-- `DISARM` (R161). -/
def disarmTimer (s : State) : State := { s with tmr := .disarmed }

/-- `SET_RAW_LOW` (R180). -/
def driveLow (s : State) : State := emit (.low s.now) { s with lm := .rawLow }

/-- `SET_RAW_HIGH` (R181). -/
def driveHigh (s : State) : State := emit (.high s.now) { s with lm := .rawHigh }

/-- `SET_UART` (R182). -/
def selectUart (s : State) : State := emit (.uartIdle s.now) { s with lm := .uart }

/-- `TX <- TxBusy(0, now)` (R183). -/
def startTransmit (s : State) : State := { s with tx := .busy 0 s.now }

/-- `TRANSMIT` (R183): it needs an idle transmitter, else it is refused (decision D25). -/
def transmitBuffer (s : State) : Host.Outcome State Fault Refusal :=
  if busy s then .refused .transmitWhileBusy else .next (startTransmit s)

/-- `if TX != TxIdle then emit(Abort(now))` (R134, R184). -/
def emitAbort (s : State) : State := if busy s then emit (.abort s.now) s else s

/-- `TX <- TxIdle`. -/
def idleTransmitter (s : State) : State := { s with tx := .idle }

/-- `ABORT` (R184). -/
def abortTransmit (s : State) : State := idleTransmitter (emitAbort s)

/-- `FC <- FC + 1` (R133); unbounded (decision D13, log 14). -/
def countFault (s : State) : State := { s with fc := s.fc + 1 }

/-- `RECOVER(c)`, the fault entry (R133, R208): log, disarm, abort, `FS <- Idle`, count. -/
def recover (c : FaultCause) (s : State) : State :=
  countFault (enterFrame .idle (abortTransmit (disarmTimer (logFault c s))))

/-- The registers at the values of R134; `TB` and `FST` are drawn anew, `now` and `WIRE` are kept. -/
def resetRegisters (s : State) : State :=
  { s with
    cb := []
    tb := drawnBuffer s.draws
    fs := .idle
    fc := 0
    tmr := .disarmed
    tx := .idle
    fst := Config.freeTime s.draws
    flog := []
    draws := s.draws + 1 }

/-- `RESET` (R134). -/
def resetBlock (s : State) : State := selectUart (resetRegisters (emitAbort s))

/-- `now <- now + n` (R165). -/
def passTime (n : Nat) (s : State) : State := { s with now := s.now + n }

end Sys2Proof.Machine
end

