-- ==== Sys2Proof/Machine/FrameMachine.lean ====
section
/-! DEFINITION. The frame-state machine (spec/41_frame_state_machine.md): the three operations of class F, total
functions of the Frame State and the event (R135), and `RESET`. The operations that depend on a parameter of R9 take
the parameters as an argument; the meanings supply `Config.params`. -/

namespace Sys2Proof.Machine

/-- The frame-start case of `TICK`, sub-steps (a) to (d) in their order (R130, R62). -/
def startFrame (p : Params) (s : State) : State :=
  enterFrame .brk (stampFrame (armTimer p.tBreakUs (driveLow (takeSnapshot s))))

/-- The watchdog's condition `now - FST > T_STALL_US` (R130, R204). -/
def stalled (p : Params) (s : State) : Bool := exceeds (s.now - s.fst) p.tStallUs

/-- `TICK` (R130). -/
def tickWith (p : Params) (s : State) : State :=
  match s.fs with
  | .idle => if busy s then s else startFrame p s
  | .brk => if stalled p s then recover .stalledFrame s else s
  | .mark => if stalled p s then recover .stalledFrame s else s
  | .data => if stalled p s then recover .stalledFrame s else s

/-- `TIMER_EXPIRED` (R131). -/
def timerExpiredWith (p : Params) (s : State) : Host.Outcome State Fault Refusal :=
  match s.fs with
  | .brk => .next (enterFrame .mark (armTimer p.tMabUs (selectUart (driveHigh s))))
  | .mark => onNext (transmitBuffer (disarmTimer s)) fun t => .next (enterFrame .data t)
  | .idle => .next (recover .unexpectedSignal s)
  | .data => .next (recover .unexpectedSignal s)

/-- `TX_COMPLETE` (R132). -/
def txCompleted (s : State) : State :=
  match s.fs with
  | .data => enterFrame .idle s
  | .idle => recover .unexpectedSignal s
  | .brk => recover .unexpectedSignal s
  | .mark => recover .unexpectedSignal s

/-- `TICK` (R130). -/
def execTick (s : State) : Host.Outcome State Fault Refusal := .next (tickWith Config.params s)

/-- `TIMER_EXPIRED` as a request: a spurious signal, which leaves `TMR` alone before it is handled (R131, R137). -/
def execTimerExpired (s : State) : Host.Outcome State Fault Refusal := timerExpiredWith Config.params s

/-- `TX_COMPLETE` as a request: a spurious signal, which leaves `TX` alone before it is handled (R132, R137). -/
def execTxComplete (s : State) : Host.Outcome State Fault Refusal := .next (txCompleted s)

/-- `RESET` (R134). -/
def execReset (s : State) : Host.Outcome State Fault Refusal := .next (resetBlock s)

end Sys2Proof.Machine
end

