-- ==== Sys2Proof/Machine/LineDriver.lean ====
section
/-! DEFINITION. The line-driver multiplexer and the bulk transmitter (spec/43_line_driver.md): the commands of class L,
the transmitter agent's steps `TX_SLOT` and `TX_DONE`, and the level the line shows (R187). -/

namespace Sys2Proof.Machine

/-- `SET_RAW_LOW` (R180). -/
def execSetRawLow (s : State) : Host.Outcome State Fault Refusal := .next (driveLow s)

/-- `SET_RAW_HIGH` (R181). -/
def execSetRawHigh (s : State) : Host.Outcome State Fault Refusal := .next (driveHigh s)

/-- `SET_UART` (R182). -/
def execSetUart (s : State) : Host.Outcome State Fault Refusal := .next (selectUart s)

/-- `TRANSMIT` (R183). -/
def execTransmit (s : State) : Host.Outcome State Fault Refusal := transmitBuffer s

/-- `ABORT` (R184). -/
def execAbort (s : State) : Host.Outcome State Fault Refusal := .next (abortTransmit s)

/-- Slot `i` starts now: it is logged with the byte read from `TB` at this instant (decision D27), and the next slot
may start when this one is over (R185). -/
def startSlot (i : Fin 514) (h : i.val ≤ 512) (s : State) : State :=
  emit (.slot s.now i.val (readTb s i.val)) { s with tx := .busy (nextIndex i h) (s.now + Config.tSlotUs) }

/-- `TX_SLOT` is enabled: `TX = TxBusy(i, t_next)`, `i <= 512`, `now >= t_next` (R185). -/
def slotEnabled (s : State) : Bool :=
  match s.tx with
  | .idle => false
  | .busy i t => decide (i.val ≤ 512) && decide (t ≤ s.now)

/-- `TX_SLOT` (R185). -/
def txSlot (s : State) : Host.Outcome State Fault Refusal :=
  match s.tx with
  | .idle => .refused .notEnabled
  | .busy i t =>
    if h : i.val ≤ 512 then
      if t ≤ s.now then .next (startSlot i h s) else .refused .notEnabled
    else .refused .notEnabled

/-- `TX_DONE` is enabled: `TX = TxBusy(513, t_next)` and `now >= t_next` (R186). -/
def doneEnabled (s : State) : Bool :=
  match s.tx with
  | .idle => false
  | .busy i t => decide (i.val = 513) && decide (t ≤ s.now)

/-- The transmitter's own part of `TX_DONE`: `emit(Done(now)); TX <- TxIdle` (R186). -/
def finishTransmit (s : State) : State := idleTransmitter (emit (.done s.now) s)

/-- `TX_DONE` (R186): `TX_COMPLETE` is handled in the same transition (decision D7). -/
def txDone (s : State) : Host.Outcome State Fault Refusal :=
  if doneEnabled s then .next (txCompleted (finishTransmit s)) else .refused .notEnabled

/-- A logical line level (R5 (d)). -/
inductive Level where
  | low | high
  deriving DecidableEq, Repr

/-- The level that carries a data bit: `High` for 1, `Low` for 0 (R91). -/
def levelOf (bit : Bool) : Level := if bit then .high else .low

/-- `slot_bits(b)`: start bit, the data bits from the least significant on, two stop bits (R91; PRESUMED, log 16). -/
def slotBits (b : Byte) : List Level :=
  [.low, levelOf (b.getLsbD 0), levelOf (b.getLsbD 1), levelOf (b.getLsbD 2), levelOf (b.getLsbD 3),
    levelOf (b.getLsbD 4), levelOf (b.getLsbD 5), levelOf (b.getLsbD 6), levelOf (b.getLsbD 7), .high, .high]

/-- The level of the physical line (R187). -/
def lineLevel (s : State) : Level :=
  match s.lm with
  | .rawLow => .low
  | .rawHigh => .high
  | .uart =>
    match s.tx with
    | .idle => .high
    | .busy i t =>
      if 1 ≤ i.val ∧ s.now < t then
        (slotBits (readTb s (i.val - 1))).getD ((s.now - (t - Config.tSlotUs)) / Config.tBitUs) .high
      else .high

end Sys2Proof.Machine
end

