-- ==== Sys2Proof/Machine/Producer.lean ====
section
/-! DEFINITION. The five operations of class P (spec/40_producer_ops.md). Each touches `CB` only and returns a response
(R115). -/

namespace Sys2Proof.Machine

/-- `SET(a, v)` (R110). -/
def execSet (a v : Int) (s : State) : Host.Outcome State Fault Refusal :=
  .next (atChannel a s fun k => respond .ok (writeCb k (clamp8 v) s))

/-- `GET(a)` (R111). -/
def execGet (a : Int) (s : State) : Host.Outcome State Fault Refusal :=
  .next (atChannel a s fun k => respond (.value (readCb s k)) s)

/-- `SET_ALL(v)` (R112). -/
def execSetAll (v : Int) (s : State) : Host.Outcome State Fault Refusal :=
  .next (respond .ok (fillCb (clamp8 v) s))

/-- `BLEND_ONE(a, r, g, b)` (R113). -/
def execBlendOne (a r g b : Int) (s : State) : Host.Outcome State Fault Refusal :=
  .next (atChannel a s fun k => respond .ok (writeCb k (blend r g b) s))

/-- `BLEND_ALL(r, g, b)` (R114). -/
def execBlendAll (r g b : Int) (s : State) : Host.Outcome State Fault Refusal :=
  .next (respond .ok (fillCb (blend r g b) s))

end Sys2Proof.Machine
end

