-- ==== Sys2Proof/Machine/Timing.lean ====
section
/-! DEFINITION. The timing-event coordinator (spec/42_timing_coordinator.md): the commands of class T, the timer agent's
step `EXPIRE` and the environment's step `ADVANCE`. -/

namespace Sys2Proof.Machine

/-- `ARM(d)` (R160). -/
def execArm (d : Nat) (s : State) : Host.Outcome State Fault Refusal := .next (armTimer d s)

/-- `DISARM` (R161). -/
def execDisarm (s : State) : Host.Outcome State Fault Refusal := .next (disarmTimer s)

/-- `EXPIRE` is enabled: `TMR = Armed(D)` and `now >= D` (R162). -/
def expireEnabled (s : State) : Bool :=
  match s.tmr with
  | .disarmed => false
  | .armed d => decide (d ≤ s.now)

/-- `EXPIRE` (R162): the timer disarms itself and `TIMER_EXPIRED` is handled in the same transition (decision D7). -/
def expireWith (p : Params) (s : State) : Host.Outcome State Fault Refusal :=
  if expireEnabled s then timerExpiredWith p (disarmTimer s) else .refused .notEnabled

/-- `ADVANCE(n)` is enabled: `n >= 1`, and the timer's signal does not become later than `J_TMR_US` (R164, R165). -/
def advanceEnabled (p : Params) (n : Nat) (s : State) : Bool :=
  decide (1 ≤ n) &&
    match s.tmr, p.jTmrUs with
    | .armed d, some j => decide (s.now + n ≤ d + j)
    | .armed _, none => true
    | .disarmed, _ => true

/-- `ADVANCE(n)` (R165). -/
def advanceWith (p : Params) (n : Nat) (s : State) : Host.Outcome State Fault Refusal :=
  if advanceEnabled p n s then .next (passTime n s) else .refused .notEnabled

end Sys2Proof.Machine
end

