-- ==== Sys2Proof/Machine/Dispatch.lean ====
section
/-! DEFINITION. One arm per operation of spec/opcode_table.json, each a direct call of its meaning. -/

namespace Sys2Proof.Machine

/-- The meaning of an operation, whoever presents it. -/
def exec (i : Instr) (s : State) : Host.Outcome State Fault Refusal :=
  match i with
  | .reset => Sys2Proof.Machine.execReset s
  | .set a v => Sys2Proof.Machine.execSet a v s
  | .get a => Sys2Proof.Machine.execGet a s
  | .setAll v => Sys2Proof.Machine.execSetAll v s
  | .blendOne a r g b => Sys2Proof.Machine.execBlendOne a r g b s
  | .blendAll r g b => Sys2Proof.Machine.execBlendAll r g b s
  | .tick => Sys2Proof.Machine.execTick s
  | .timerExpired => Sys2Proof.Machine.execTimerExpired s
  | .txComplete => Sys2Proof.Machine.execTxComplete s
  | .arm d => Sys2Proof.Machine.execArm d s
  | .disarm => Sys2Proof.Machine.execDisarm s
  | .setRawLow => Sys2Proof.Machine.execSetRawLow s
  | .setRawHigh => Sys2Proof.Machine.execSetRawHigh s
  | .setUart => Sys2Proof.Machine.execSetUart s
  | .transmit => Sys2Proof.Machine.execTransmit s
  | .abort => Sys2Proof.Machine.execAbort s

end Sys2Proof.Machine
end

