-- ==== Sys2Proof/Machine/Run.lean ====
section
/-! DEFINITION. One step of one agent (spec/00_scope.md R6): a request is decoded, checked against its context and run;
an autonomous step is taken when it is enabled. Whose step comes next is data: the head of the trace, or, when the
trace is used up, a free move (spec/20_memory.md R61, spec/60_exceptions.md R207). -/

namespace Sys2Proof.Machine

/-- A request word presented in a context: reserved codes are refused (R85), and so are calls from the wrong context
(R212); every other request runs its operation. -/
def runRequest (c : Context) (w : RequestWord) (s : State) : Host.Outcome State Fault Refusal :=
  match decode w with
  | .invalid opc => .refused (.reservedOpcode opc)
  | .op i => if mayRequest c i then exec i s else .refused .wrongContext

/-- One step of one agent (R6). -/
def runMove (m : Move) (s : State) : Host.Outcome State Fault Refusal :=
  match m with
  | .request c w => runRequest c w s
  | .advance n => advanceWith Config.params n s
  | .expire => expireWith Config.params s
  | .txSlot => txSlot s
  | .txDone => txDone s

/-- Moves one after the other, up to the first that stops. -/
def runMoves : List Move → State → Host.Outcome State Fault Refusal
  | [], s => .next s
  | m :: ms, s => onNext (runMove m s) (runMoves ms)

/-- A freely chosen move. Where the draw has no meaning in this state, or is a command at an internal port, no agent
moves: the state stays (log 2). -/
def runFree (m : Move) (s : State) : Host.Outcome State Fault Refusal :=
  if m.internal then .next s
  else
    match runMove m s with
    | .next t => .next t
    | .fault _ => .next s
    | .refused _ => .next s

/-- The move at the head of the trace is taken off, and the response port is cleared: an operation of another class
returns nothing (R89, log 3). -/
def takeMove (rest : List Move) (s : State) : State := { s with trace := rest, response := none }

/-- A free move is drawn, and the response port is cleared. -/
def drawMove (s : State) : State := { s with draws := s.draws + 1, response := none }

/-- The move the next step takes or tries. -/
def nextMove (s : State) : Move :=
  match s.trace with
  | m :: _ => m
  | [] => Config.freeMove s.draws

/-- One step of the machine. -/
def stepOnce (s : State) : Host.Outcome State Fault Refusal :=
  match s.trace with
  | m :: rest => runMove m (takeMove rest s)
  | [] => runFree (Config.freeMove s.draws) (drawMove s)

/-- Put a request word at the head of the trace, in the context it is wired to (R212, log 10). -/
def presentWord (w : RequestWord) (s : State) : State :=
  { s with trace := .request (homeContext w) w :: s.trace }

end Sys2Proof.Machine
end

