-- ==== Sys2Proof/Machine/Step.lean ====
section
/-! DEFINITION. The step function of the block, and how a request word of spec/opcode_table.json comes to be its next
step. -/

namespace Sys2Proof.Machine

/-- One step of the block (spec/00_scope.md R6). -/
def step (s : State) : Host.Outcome State Fault Refusal := stepOnce s

/-- The block fetches no program: an operation runs because it is presented. This presents the word whose low `nbits`
bits are those of `w` as the next request. -/
def State.withFetchWord (s : State) (nbits w : Nat) : State := presentWord (tableWord nbits w) s

end Sys2Proof.Machine
end

