-- ==== Sys2Proof/Safety.lean ====
section
/-! DEFINITION. The terms the claims are stated in: the invariants of spec/10_state.md R37 and R38, what a well-ordered
and a well-timed wire log is (R62, R163, R185, R186), a frame on the wire (R30), the eager schedule of
spec/95_test_vectors.md, the place in the cycle (R32, R62), and the premises `NoStall` and `NoSpurious` of
spec/00_scope.md R13, each for one step (`Move.spurious` for the latter). -/

namespace Sys2Proof.Safety

open Sys2Proof.Machine

/-- The bits of a request word that the decoder reads for an operation: `OPC` and the fields of R82's table. -/
def usedBits : Instr → RequestWord
  | .reset => 0xFF0000000000000000
  | .set _ _ => 0xFFFFFFFFFF00000000
  | .get _ => 0xFFFFFF000000000000
  | .setAll _ => 0xFF0000FFFF00000000
  | .blendOne _ _ _ _ => 0xFFFFFFFFFFFFFFFFFF
  | .blendAll _ _ _ => 0xFF0000FFFFFFFFFFFF
  | .tick => 0xFF0000000000000000
  | .timerExpired => 0xFF0000000000000000
  | .txComplete => 0xFF0000000000000000
  | .arm _ => 0xFF0000FFFF00000000
  | .disarm => 0xFF0000000000000000
  | .setRawLow => 0xFF0000000000000000
  | .setRawHigh => 0xFF0000000000000000
  | .setUart => 0xFF0000000000000000
  | .transmit => 0xFF0000000000000000
  | .abort => 0xFF0000000000000000

/-- The operation codes R82 lists. -/
def listedOpcodes : List Byte :=
  [0x00, 0x10, 0x11, 0x12, 0x13, 0x14, 0x20, 0x21, 0x22, 0x30, 0x31, 0x40, 0x41, 0x42, 0x43, 0x44]

/-- A buffer in canonical form, all of whose listed addresses lie in `lo..hi` (R21, R22, R51, R52). -/
def BufferIn (lo hi : Nat) (m : Memory) : Prop := m.wf ∧ m.within lo hi

/-- The invariants I1, I2, I3, I5, I6 and I7 of R37, the line mode each phase implies, the canonical form of both
buffers, and that no command at an internal port is due (R80: classes T and L "are issued only by the frame-state
machine"). -/
structure Consistent (s : State) : Prop where
  channels : BufferIn 1 512 s.cb
  snapshot : BufferIn 0 512 s.tb
  /-- I1. -/
  idleDisarmed : s.fs = .idle → s.tmr = .disarmed
  /-- I2, first half. -/
  breakSilent : s.fs = .brk → s.tx = .idle
  /-- I2, second half. -/
  markSilent : s.fs = .mark → s.tx = .idle
  /-- I3. -/
  dataDisarmed : s.fs = .data → s.tmr = .disarmed
  /-- I5. -/
  busyUart : busy s = true → s.lm = .uart
  breakLow : s.fs = .brk → s.lm = .rawLow
  markUart : s.fs = .mark → s.lm = .uart
  /-- I6. -/
  faultsCounted : s.fc = s.flog.length
  /-- I7, for the frame in progress. -/
  startCodeZero : s.fs ≠ .idle ∨ busy s = true → s.tb.read 0 = 0
  agentsOnly : ∀ m ∈ s.trace, m.internal = false

/-- Every two neighbours of a list are related. -/
def adjacent (r : WireEntry → WireEntry → Prop) : List WireEntry → Prop
  | a :: b :: l => r a b ∧ adjacent r (b :: l)
  | _ => True

/-- What may follow what on the wire, whatever signals are injected: the line goes high in raw mode only out of a
break, and to the UART at once; slot 0 comes only after the switch to the UART (that of a mark: `slotsAfterMark`), slot `i + 1` only after slot `i` and not
before it is over, completion only after slot 512 is over (R62, R185, R186). -/
def mayFollow (x y : WireEntry) : Prop :=
  match x, y with
  | .low a, .high b => a ≤ b
  | _, .high _ => False
  | .high a, .uartIdle b => a = b
  | .high _, _ => False
  | .uartIdle a, .slot b i _ => i = 0 ∧ a ≤ b
  | .slot a i _, .slot b j _ => j = i + 1 ∧ a + Config.tSlotUs ≤ b
  | _, .slot _ _ _ => False
  | .slot a i _, .done b => i = 512 ∧ a + Config.tSlotUs ≤ b
  | _, .done _ => False
  | _, _ => True

/-- The list ends in a break and the mark after it, which began at `a`: line low, line high, UART (R62). -/
def endsInMark (l : List WireEntry) (a : Nat) : Prop := ∃ k b, l = k ++ [.low b, .high a, .uartIdle a]

/-- Every slot 0 stands directly after a break and its mark (R62). -/
def slotsAfterMark (l : List WireEntry) : Prop :=
  ∀ k t b r, l = k ++ .slot t 0 b :: r → ∃ a, endsInMark k a

/-- The log begins with a break or with a reset's switch to the UART, so nothing that needs a predecessor comes first. -/
def beginsAtRest (l : List WireEntry) : Prop :=
  ∀ x, l.head? = some x → (∃ a, x = .low a) ∨ ∃ a, x = .uartIdle a

/-- The wire log is in order, and ends as the phase of the frame implies. -/
structure WireOrdered (s : State) : Prop where
  consistent : Consistent s
  ordered : adjacent mayFollow s.wire
  begins : beginsAtRest s.wire
  slots : slotsAfterMark s.wire
  /-- `SET_RAW_HIGH` and `SET_UART` are one transition, so no state stands between them (R181). -/
  noRawHigh : ∀ a, s.wire.getLast? ≠ some (.high a)
  inBreak : s.fs = .brk → ∃ a, s.wire.getLast? = some (.low a) ∧ a ≤ s.now
  inMark : s.fs = .mark → ∃ a, endsInMark s.wire a ∧ a ≤ s.now
  beforeFirstSlot : ∀ tn, s.tx = .busy 0 tn → ∃ a, endsInMark s.wire a ∧ a ≤ s.now
  afterSlot : ∀ i tn, s.tx = .busy i tn → i.val ≠ 0 →
    ∃ a b, s.wire.getLast? = some (.slot a (i.val - 1) b) ∧ a + Config.tSlotUs ≤ tn

/-- The protocol's minimum durations between neighbours on the wire (R163): the line stays low for at least `T_BREAK_US`
before the mark, and high for at least `T_MAB_US` before slot 0. -/
def longEnough (p : Params) (x y : WireEntry) : Prop :=
  match x, y with
  | .low a, .high b => a + p.tBreakUs ≤ b
  | .uartIdle a, .slot b _ _ => a + p.tMabUs ≤ b
  | _, _ => True

/-- The wire log keeps the minimum durations, and the countdown in progress will keep them. -/
structure WireTimed (p : Params) (s : State) : Prop where
  inOrder : WireOrdered s
  timed : adjacent (longEnough p) s.wire
  breakCountdown : s.fs = .brk →
    ∃ a d, s.wire.getLast? = some (.low a) ∧ s.tmr = .armed d ∧ a + p.tBreakUs ≤ d
  markCountdown : s.fs = .mark →
    ∃ a d, s.wire.getLast? = some (.uartIdle a) ∧ s.tmr = .armed d ∧ a + p.tMabUs ≤ d
  markOver : ∀ tn, s.tx = .busy 0 tn → ∃ a, s.wire.getLast? = some (.uartIdle a) ∧ a + p.tMabUs ≤ s.now

/-- I8, I9 and I10 of R38. -/
structure FaultFree (s : State) : Prop where
  consistent : Consistent s
  noFault : s.fc = 0
  dataBusy : s.fs = .data ↔ busy s = true
  phaseArmed : (s.fs = .brk ∨ s.fs = .mark) ↔ armed s = true

/-- The watchdog does not fire at this step (`NoStall` of R13). -/
def noStallAt (s : State) : Prop :=
  (nextMove s).presents .tick = true → s.fs ≠ .idle → stalled Config.params s = false

/-- What the wire log gains from one state to a later one. -/
def gained (s t : State) : List WireEntry := t.wire.drop s.wire.length

/-- What a frame puts on the wire when every step is taken as early as its rule enables it, for a `TICK` at `t0` and the
channel bytes `ch` (R30, R246 with all lateness zero). -/
def frameWire (p : Params) (t0 : Nat) (ch : Nat → Byte) : List WireEntry :=
  [.low t0, .high (t0 + p.tBreakUs), .uartIdle (t0 + p.tBreakUs)] ++
    (List.range 513).map (fun i =>
      .slot (t0 + p.tBreakUs + p.tMabUs + Config.tSlotUs * i) i (if i = 0 then Config.startCode else ch i)) ++
    [.done (t0 + p.tBreakUs + p.tMabUs + Config.tDataMinUs)]

/-- The eager schedule of one frame: `TICK`, the two countdowns, 513 slots, completion (spec/95_test_vectors.md P1). -/
def eagerFrame (p : Params) : List Move :=
  [.request .driverLoop 0x200000000000000000, .advance p.tBreakUs, .expire, .advance p.tMabUs, .expire] ++
    (List.replicate 513 [Move.txSlot, Move.advance Config.tSlotUs]).flatten ++ [.txDone]

/-- How far the frame in progress is in its cycle of 517 places: `Idle`, `Break`, `Mark`, `Data` before each of the 513
slots, and `Data` with all slots sent (R32, R62). -/
def cyclePosition (s : State) : Nat :=
  match s.fs with
  | .idle => 0
  | .brk => 1
  | .mark => 2
  | .data =>
    match s.tx with
    | .idle => 3
    | .busy i _ => 3 + i.val

/-- The moves that carry the cycle on: the genuine signals, the slots, and a `TICK` in `Idle` (R62). -/
def movesCycle (m : Move) (s : State) : Bool :=
  match m with
  | .request _ _ => m.presents .tick && decide (s.fs = .idle)
  | .advance _ => false
  | .expire => true
  | .txSlot => true
  | .txDone => true

/-- The move is an autonomous step (R95). -/
def autonomous : Move → Bool
  | .request _ _ => false
  | .advance _ => true
  | .expire => true
  | .txSlot => true
  | .txDone => true

/-- The move is an `ADVANCE`. -/
def passesTime : Move → Bool
  | .request _ _ => false
  | .advance _ => true
  | .expire => false
  | .txSlot => false
  | .txDone => false

/-- Time passes at most once before each other move: no `ADVANCE` follows an `ADVANCE`. -/
abbrev onePassageEach (ms : List Move) : Prop :=
  ms.IsChain (fun m n => passesTime m = false ∨ passesTime n = false)

end Sys2Proof.Safety
end

