-- ==== Sys2Proof/Certificates/Slice0/Obligations.lean ====
section
/-! DEFINITION. The statements about the model, each from rules of spec/. A statement that writes a next state as
`{ s with … }` states the frame too: every field it does not name is unchanged. Nothing here is proved. -/

open Sys2Proof Sys2Proof.Machine Sys2Proof.Safety

/-! ### Encoding -/

/-- R81, R82, R83 (encoding of decision D15): decoding the canonical word of a well-formed operation gives it back. -/
def Obligations.DecodeEncodeRoundTrip : Prop :=
  ∀ i : Instr, i.wellFormed = true → decode (encode i) = .op i

/-- R81, R83 (decision D15): what the decoder gives is well-formed, and its canonical word is the word read with every
unused field zero, so no bit of a used field is dropped. -/
def Obligations.DecodedOperationsReencode : Prop :=
  ∀ (w : RequestWord) (i : Instr), decode w = .op i → i.wellFormed = true ∧ encode i = w &&& usedBits i

/-- R85 (decision D26): the decoder gives an operation exactly for the sixteen listed codes, answers `invalid` for every
other, and a request with such a code is refused, in every context and state. -/
def Obligations.ReservedOpcodesHaveNoMeaning : Prop :=
  (∀ w : RequestWord, (∃ i, decode w = .op i) ↔ fieldOpc w ∈ listedOpcodes) ∧
  ∀ w : RequestWord, fieldOpc w ∉ listedOpcodes →
    decode w = .invalid (fieldOpc w) ∧
    ∀ (c : Context) (s : State), runMove (.request c w) s = .refused (.reservedOpcode (fieldOpc w))

/-- R82 (operation codes of decision D15), R83: a request word for each of the sixteen operations, as
spec/95_test_vectors.md prints them. -/
def Obligations.WrittenWordsDecode : Prop :=
  decode 0x000000000000000000 = .op .reset ∧
  decode 0x10FFFF000A00000000 = .op (.set (-1) 10) ∧
  decode 0x110005000000000000 = .op (.get 5) ∧
  decode 0x120000FFFC00000000 = .op (.setAll (-4)) ∧
  decode 0x130007000A0014001E = .op (.blendOne 7 10 20 30) ∧
  decode 0x140000000000000002 = .op (.blendAll 0 0 2) ∧
  decode 0x20FFFFFFFFFFFFFFFF = .op .tick ∧
  decode 0x210000000000000000 = .op .timerExpired ∧
  decode 0x220000000000000000 = .op .txComplete ∧
  decode 0x300000005800000000 = .op (.arm 88) ∧
  decode 0x310000000000000000 = .op .disarm ∧
  decode 0x400000000000000000 = .op .setRawLow ∧
  decode 0x410000000000000000 = .op .setRawHigh ∧
  decode 0x420000000000000000 = .op .setUart ∧
  decode 0x430000000000000000 = .op .transmit ∧
  decode 0x440000000000000000 = .op .abort

/-! ### The step -/

/-- R6, R212: when the next move presents a word, in a context that may present it, the step is `exec` of the operation the
word decodes to, on the state with the move taken off and the response port cleared. -/
def Obligations.StepRunsRequestedOperation : Prop :=
  ∀ (s : State) (c : Context) (w : RequestWord) (rest : List Move) (i : Instr),
    s.trace = .request c w :: rest → decode w = .op i → mayRequest c i = true →
    step s = exec i { s with trace := rest, response := none }

/-- R95: when the next move is an autonomous step, the machine's step is that agent's step. -/
def Obligations.StepTakesAutonomousMove : Prop :=
  ∀ (s : State) (rest : List Move),
    (∀ n, s.trace = .advance n :: rest →
      step s = advanceWith Config.params n { s with trace := rest, response := none }) ∧
    (s.trace = .expire :: rest → step s = expireWith Config.params { s with trace := rest, response := none }) ∧
    (s.trace = .txSlot :: rest → step s = txSlot { s with trace := rest, response := none }) ∧
    (s.trace = .txDone :: rest → step s = txDone { s with trace := rest, response := none })

/-- R82, R212: a word presented as the next request runs the operation the decoder reads from it, in every state. -/
def Obligations.PresentedWordRuns : Prop :=
  ∀ (s : State) (nbits w : Nat) (i : Instr), decodeTableWord nbits w = some i →
    step (s.withFetchWord nbits w) = exec i { s with response := none }

/-- R212 (decision D30): what each context may present, and that every other call is refused. -/
def Obligations.WrongContextRefused : Prop :=
  (∀ (c : Context) (w : RequestWord) (i : Instr) (s : State), decode w = .op i → mayRequest c i = false →
    runMove (.request c w) s = .refused .wrongContext) ∧
  ∀ i : Instr,
    (mayRequest .driverLoop i = true ↔ classOf i = .producer ∨ i = .tick) ∧
    mayRequest .timerSignal i = false ∧ mayRequest .transmitSignal i = false ∧
    (mayRequest .environment i = true ↔ i = .reset ∨ i = .timerExpired ∨ i = .txComplete) ∧
    (mayRequest .commandPort i = true ↔ classOf i = .timing ∨ classOf i = .line)

/-! ### Producer operations -/

/-- R110: `SET` rejects an address outside 1..512 before it looks at the value, and changes nothing then; else it stores
the clamped value at the address, whatever the Frame State, and changes nothing else. -/
def Obligations.SetStoresClampedValue : Prop :=
  (∀ w : RequestWord, fieldOpc w = 0x10 → decode w = .op (.set (sext16 (fieldA w)) (sext16 (fieldV0 w)))) ∧
  ∀ (a v : Int) (s : State),
    (a < 1 ∨ 512 < a → exec (.set a v) s = .next { s with response := some .invalidAddress }) ∧
    (1 ≤ a ∧ a ≤ 512 → ∃ t, exec (.set a v) s = .next t ∧
      t = { s with cb := t.cb, response := some .ok } ∧
      ((readCb t a.toNat).toNat : Int) = max 0 (min 255 v) ∧
      ∀ k, k ≠ a.toNat → readCb t k = readCb s k)

/-- R111: `GET` returns the working byte and changes nothing. That an address outside 1..512 is `InvalidAddress` is
decision D18. -/
def Obligations.GetReturnsChannelByte : Prop :=
  ∀ (a : Int) (s : State),
    (a < 1 ∨ 512 < a → exec (.get a) s = .next { s with response := some .invalidAddress }) ∧
    (1 ≤ a ∧ a ≤ 512 → exec (.get a) s = .next { s with response := some (.value (readCb s a.toNat)) })

/-- R112: `SET_ALL` stores the clamped value at every channel in one transition and changes nothing else. -/
def Obligations.SetAllFillsEveryChannel : Prop :=
  (∀ w : RequestWord, fieldOpc w = 0x12 → decode w = .op (.setAll (sext16 (fieldV0 w)))) ∧
  ∀ (v : Int) (s : State), ∃ t, exec (.setAll v) s = .next t ∧
    t = { s with cb := t.cb, response := some .ok } ∧
    ∀ a, 1 ≤ a → a ≤ 512 → ((readCb t a).toNat : Int) = max 0 (min 255 v)

/-- R113: `BLEND_ONE` stores the truncated average of the clamped components at the address. The address operand and the
clamp before the sum are decision D19. -/
def Obligations.BlendOneStoresTruncatedAverage : Prop :=
  ∀ (a r g b : Int) (s : State),
    (a < 1 ∨ 512 < a → exec (.blendOne a r g b) s = .next { s with response := some .invalidAddress }) ∧
    (1 ≤ a ∧ a ≤ 512 → ∃ t, exec (.blendOne a r g b) s = .next t ∧
      t = { s with cb := t.cb, response := some .ok } ∧
      ((readCb t a.toNat).toNat : Int) = (max 0 (min 255 r) + max 0 (min 255 g) + max 0 (min 255 b)) / 3 ∧
      ∀ k, k ≠ a.toNat → readCb t k = readCb s k)

/-- R114: `BLEND_ALL` stores that average at every channel in one transition (decision D19 for the clamp). -/
def Obligations.BlendAllFillsEveryChannel : Prop :=
  ∀ (r g b : Int) (s : State), ∃ t, exec (.blendAll r g b) s = .next t ∧
    t = { s with cb := t.cb, response := some .ok } ∧
    ∀ a, 1 ≤ a → a ≤ 512 →
      ((readCb t a).toNat : Int) = (max 0 (min 255 r) + max 0 (min 255 g) + max 0 (min 255 b)) / 3

/-- R201, R202 (GET by decision D18): among the producer operations, `InvalidAddress` is reported exactly for a `SET`, `GET`
or `BLEND_ONE` whose address is outside 1..512, and then `FC` and `FLOG` stay; `OutOfRangeValue` is never reported. -/
def Obligations.InvalidAddressReportedExactly : Prop :=
  ∀ (i : Instr) (s t : State), classOf i = .producer → exec i s = .next t →
    (t.response = some .invalidAddress ↔
      ∃ a : Int, (a < 1 ∨ 512 < a) ∧
        ((∃ v, i = .set a v) ∨ i = .get a ∨ ∃ r g b, i = .blendOne a r g b)) ∧
    t.fc = s.fc ∧ t.flog = s.flog ∧
    ∃ r, t.response = some r ∧ responseError r ≠ some .outOfRangeValue

/-- R116: `clamp8` is idempotent, monotone and the identity on 0..255; the average of three bytes is the floor of a third
of their sum and lies between the least and the greatest of them. -/
def Obligations.ClampAndAverageLaws : Prop :=
  (∀ v : Int, clamp8 ((clamp8 v).toNat : Int) = clamp8 v) ∧
  (∀ v w : Int, v ≤ w → (clamp8 v).toNat ≤ (clamp8 w).toNat) ∧
  (∀ v : Int, 0 ≤ v → v ≤ 255 → ((clamp8 v).toNat : Int) = v) ∧
  ∀ x y z : Byte,
    (average x y z).toNat = (x.toNat + y.toNat + z.toNat) / 3 ∧
    min x.toNat (min y.toNat z.toNat) ≤ (average x y z).toNat ∧
    (average x y z).toNat ≤ max x.toNat (max y.toNat z.toNat)

/-- R115: every producer operation completes in every state, writes `CB` and its response only, and reads `CB` only; after
a blend nothing records that the value came from a blend. -/
def Obligations.ProducerTouchesOnlyChannelBuffer : Prop :=
  (∀ (i : Instr) (s : State), classOf i = .producer → ∃ t, exec i s = .next t ∧
    t = { s with cb := t.cb, response := t.response } ∧
    ∀ u : State, u.cb = s.cb → exec i u = .next { u with cb := t.cb, response := t.response }) ∧
  ∀ (a r g b : Int) (s : State),
    exec (.blendOne a r g b) s = exec (.set a ((blend r g b).toNat : Int)) s ∧
    exec (.blendAll r g b) s = exec (.setAll ((blend r g b).toNat : Int)) s

/-- R58: `GET` changes nothing but its response, the copy does not change `CB`, `TX_SLOT` does not change `TB`, and
a producer write changes nothing but the Channel Buffer and its response, and performing it twice in a row leaves the same
state as performing it once. -/
def Obligations.ReadsPureWritesIdempotent : Prop :=
  (∀ (a : Int) (s t : State), exec (.get a) s = .next t → t = { s with response := t.response }) ∧
  (∀ s t : State, exec .tick s = .next t → t.cb = s.cb) ∧
  (∀ s t : State, runMove .txSlot s = .next t → t.tb = s.tb) ∧
  ∀ (i : Instr) (s t : State),
    (∃ a v, i = .set a v) ∨ (∃ v, i = .setAll v) ∨ (∃ a r g b, i = .blendOne a r g b) ∨
      (∃ r g b, i = .blendAll r g b) →
    exec i s = .next t → t = { s with cb := t.cb, response := t.response } ∧ exec i t = .next t

/-! ### Who writes what -/

/-- R21, R60: the Channel Buffer changes only in a step that presents `SET`, `SET_ALL`, `BLEND_ONE`, `BLEND_ALL` or
`RESET`. -/
def Obligations.ChannelBufferWrittenOnlyByProducer : Prop :=
  ∀ (m : Move) (s t : State), runMove m s = .next t → t.cb ≠ s.cb →
    ∃ c w i, m = .request c w ∧ decode w = .op i ∧
      ((classOf i = .producer ∧ ∀ a, i ≠ .get a) ∨ i = .reset)

/-- R22, R60: the Transmit Buffer changes only in the frame-start case of `TICK`, with the transmitter idle, or in a
`RESET`. -/
def Obligations.TransmitBufferWrittenOnlyAtFrameStart : Prop :=
  ∀ (m : Move) (s t : State), runMove m s = .next t → t.tb ≠ s.tb →
    (m.presents .tick = true ∧ s.fs = .idle ∧ s.tx = .idle ∧ t.fs = .brk) ∨ m.presents .reset = true

/-- R22, I4 of R37: while a transmission is in flight, the buffer it is sent from does not change. -/
def Obligations.TransmitBufferStableInFlight : Prop :=
  ∀ s t : State, step s = .next t → busy s = true → busy t = true → t.tb = s.tb

/-! ### The frame-state machine -/

/-- R130, R59, R52: `TICK` in `Idle` with the transmitter idle (decision D4) takes the snapshot with start code 0, drives
the line low, arms the break timer, stamps the frame (decision D10) and enters `Break`; nothing else changes. -/
def Obligations.TickStartsFrame : Prop :=
  ∀ s : State, s.fs = .idle → s.tx = .idle → ∃ t, exec .tick s = .next t ∧
    t = { s with
      tb := t.tb, lm := .rawLow, wire := s.wire ++ [.low s.now]
      tmr := .armed (s.now + Config.params.tBreakUs), fst := s.now, fs := .brk } ∧
    readTb t 0 = Config.startCode ∧ (∀ i, 1 ≤ i → i ≤ 512 → readTb t i = readCb s i) ∧
    88 ≤ Config.params.tBreakUs

/-- R130, R135: `TICK` does nothing while a frame is in progress and not stalled, and nothing in `Idle` while the
transmitter is busy (decision D4); outside `Idle`, stalled or not, it never changes either buffer, never arms the timer,
starts no transmission and leaves the line as it is. -/
def Obligations.TickBackpressure : Prop :=
  (∀ s : State, s.fs ≠ .idle → stalled Config.params s = false → exec .tick s = .next s) ∧
  (∀ s : State, s.fs = .idle → busy s = true → exec .tick s = .next s) ∧
  ∀ s : State, s.fs ≠ .idle → ∃ t, exec .tick s = .next t ∧
    t.tb = s.tb ∧ t.cb = s.cb ∧ t.lm = s.lm ∧ t.fst = s.fst ∧ t.now = s.now ∧
    (t.tmr = s.tmr ∨ t.tmr = .disarmed) ∧ (t.tx = s.tx ∨ t.tx = .idle)

/-- R204, R130 (decisions D10, D11; `ABORT` by D5, the unchanged line mode by D6), for every choice of the parameters R9
leaves open: a `TICK` that finds the machine outside `Idle` for longer than the stall time logs `StalledFrame`, disarms the
timer, stops the transmitter, forces `Idle` and counts; up to the stall time, or with an infinite one, it does nothing. -/
def Obligations.WatchdogRecoversStalledFrame : Prop :=
  (∀ s : State, exec .tick s = .next (tickWith Config.params s)) ∧
  (∀ (p : Params) (s : State) (limit : Nat), s.fs ≠ .idle → p.tStallUs = some limit →
    (limit < s.now - s.fst → tickWith p s = { s with
      flog := s.flog ++ [(.stalledFrame, s.fs)], tmr := .disarmed, tx := .idle, fs := .idle, fc := s.fc + 1
      wire := if s.tx = .idle then s.wire else s.wire ++ [.abort s.now] }) ∧
    (s.now - s.fst ≤ limit → tickWith p s = s)) ∧
  ∀ (p : Params) (s : State), s.fs ≠ .idle → p.tStallUs = none → tickWith p s = s

/-- R131: `TIMER_EXPIRED` in `Break` drives the line high, selects the UART, arms the mark timer and enters `Mark`;
nothing else changes. -/
def Obligations.TimerExpiredEndsBreak : Prop :=
  ∀ s : State, s.fs = .brk → exec .timerExpired s = .next { s with
    lm := .uart, wire := s.wire ++ [.high s.now, .uartIdle s.now]
    tmr := .armed (s.now + Config.params.tMabUs), fs := .mark }

/-- R131: `TIMER_EXPIRED` in `Mark` disarms the timer, starts the transmitter at byte 0 and enters `Data`; nothing else
changes. With a busy transmitter, which no run reaches (I2 of R37), it is refused, as `TRANSMIT` is (decision D25). -/
def Obligations.TimerExpiredStartsTransmission : Prop :=
  (∀ s : State, s.fs = .mark → s.tx = .idle →
    exec .timerExpired s = .next { s with tmr := .disarmed, tx := .busy 0 s.now, fs := .data }) ∧
  ∀ s : State, s.fs = .mark → s.tx ≠ .idle → exec .timerExpired s = .refused .transmitWhileBusy

/-- R132: `TX_COMPLETE` in `Data` enters `Idle` and changes nothing else. -/
def Obligations.TxCompleteEndsFrame : Prop :=
  ∀ s : State, s.fs = .data → exec .txComplete s = .next { s with fs := .idle }

/-- R203, R133 (`ABORT` by decision D5, the unchanged line mode by D6): the five (state, signal) pairs that are faults
recover: the cause is logged with the state it was found in, the timer is disarmed, the transmitter stopped, `Idle`
forced, and the counter goes up by exactly one. Which of the two signals it was is not recorded. -/
def Obligations.UnexpectedSignalRecovers : Prop :=
  ∀ s : State,
    let recovered : State := { s with
      flog := s.flog ++ [(.unexpectedSignal, s.fs)], tmr := .disarmed, tx := .idle, fs := .idle, fc := s.fc + 1
      wire := if s.tx = .idle then s.wire else s.wire ++ [.abort s.now] }
    (s.fs = .idle ∨ s.fs = .data → exec .timerExpired s = .next recovered) ∧
    (s.fs = .idle ∨ s.fs = .brk ∨ s.fs = .mark → exec .txComplete s = .next recovered)

/-- R209: an event that faults has no effect other than the recovery: it never copies a buffer, never leaves the timer
armed or the transmitter started, and moves neither time nor line mode. -/
def Obligations.FaultsArePrecise : Prop :=
  ∀ (i : Instr) (s t : State), classOf i = .frame → exec i s = .next t → t.fc ≠ s.fc →
    ∃ c, t = recover c s ∧ t.cb = s.cb ∧ t.tb = s.tb ∧ t.fst = s.fst ∧ t.now = s.now ∧ t.lm = s.lm ∧
      t.tmr = .disarmed ∧ t.tx = .idle ∧ t.fs = .idle ∧ t.fc = s.fc + 1 ∧ t.flog = s.flog ++ [(c, s.fs)]

/-- R135: the Frame State changes only along the arrows of the table: `TICK` from `Idle` to `Break`, the timer's signal from
`Break` to `Mark` and from `Mark` to `Data`, the completion signal from `Data` to `Idle`; every other change is to `Idle`,
by a counted fault or a `RESET`. -/
def Obligations.FrameStateFollowsCycle : Prop :=
  ∀ (m : Move) (s t : State), runMove m s = .next t → t.fs ≠ s.fs →
    (s.fs = .idle ∧ t.fs = .brk ∧ m.presents .tick = true ∧ t.fc = s.fc) ∨
    (s.fs = .brk ∧ t.fs = .mark ∧ (m = .expire ∨ m.presents .timerExpired = true) ∧ t.fc = s.fc) ∨
    (s.fs = .mark ∧ t.fs = .data ∧ (m = .expire ∨ m.presents .timerExpired = true) ∧ t.fc = s.fc) ∨
    (s.fs = .data ∧ t.fs = .idle ∧ (m = .txDone ∨ m.presents .txComplete = true) ∧ t.fc = s.fc) ∨
    (t.fs = .idle ∧ t.fc = s.fc + 1) ∨ (t.fs = .idle ∧ m.presents .reset = true)

/-- R134 (decision D31): `RESET` in any state gives every register its reset value, logs the abort of a busy transmitter
and the switch to the UART, and keeps time and the earlier wire log. `TB` and `FST` are unspecified (decision D20), so
nothing is said of them. -/
def Obligations.ResetRestoresRegisters : Prop :=
  ∀ s : State, ∃ t, exec .reset s = .next t ∧
    (∀ a, readCb t a = 0) ∧ t.fs = .idle ∧ t.fc = 0 ∧ t.flog = [] ∧ t.tmr = .disarmed ∧ t.tx = .idle ∧
    t.lm = .uart ∧ t.now = s.now ∧ t.response = s.response ∧ t.trace = s.trace ∧
    t.wire = s.wire ++ (if s.tx = .idle then [] else [.abort s.now]) ++ [.uartIdle s.now]

/-- R231, R34: the values after reset; `TB` and `FST` are unspecified (decision D20), and the values of `FC`, `TMR`, `LM`,
`TX` and `now` are decisions D13, D20 and D1. -/
def Obligations.ResetStateValues : Prop :=
  (∀ a, readCb State.reset a = 0) ∧ State.reset.fs = .idle ∧ State.reset.fc = 0 ∧
  State.reset.tmr = .disarmed ∧ State.reset.tx = .idle ∧ State.reset.lm = .uart ∧
  State.reset.flog = [] ∧ State.reset.wire = [] ∧ State.reset.now = 0 ∧ lineLevel State.reset = .high

/-- R211: after an event of the frame-state machine that counted a fault, the next `TICK` starts a frame. -/
def Obligations.TickAfterFaultStartsFrame : Prop :=
  ∀ (i : Instr) (s t : State), classOf i = .frame → exec i s = .next t → t.fc ≠ s.fc →
    ∃ u, exec .tick t = .next u ∧ u.fs = .brk ∧ u.lm = .rawLow ∧
      u.tmr = .armed (s.now + Config.params.tBreakUs) ∧ u.fc = t.fc ∧
      ∀ j, 1 ≤ j → j ≤ 512 → readTb u j = readCb s j

/-! ### The timing coordinator -/

/-- R160: `ARM` starts a countdown from now and changes nothing else; armed already, the new countdown replaces the old
(decision D9), so the timer's signal is enabled exactly when the new deadline is reached, at once for duration 0. -/
def Obligations.ArmReplacesCountdown : Prop :=
  ∀ (d : Nat) (s : State), exec (.arm d) s = .next { s with tmr := .armed (s.now + d) } ∧
    ∀ t, exec (.arm d) s = .next t →
      armed t = true ∧ ∀ n, expireEnabled { t with now := t.now + n } = decide (d ≤ n)

/-- R161: `DISARM` disarms the timer and changes nothing else, does nothing on a disarmed timer, and after it no signal
is produced for the cancelled countdown. -/
def Obligations.DisarmCancelsCountdown : Prop :=
  (∀ w : RequestWord, fieldOpc w = 0x31 → decode w = .op .disarm) ∧
  ∀ s : State, exec .disarm s = .next { s with tmr := .disarmed } ∧
    (s.tmr = .disarmed → exec .disarm s = .next s) ∧
    ∀ t, exec .disarm s = .next t →
      armed t = false ∧ exec .disarm t = .next t ∧ ∀ n, runMove .expire { t with now := n } = .refused .notEnabled

/-- R162, R163 (delivery in the same transition by decision D7): `EXPIRE` is taken exactly when the timer is armed and its
deadline is reached; it disarms the timer and delivers `TIMER_EXPIRED`, and in a consistent state that signal is expected
and no fault is counted. -/
def Obligations.ExpireDeliversExpectedSignal : Prop :=
  (∀ s : State, (∀ d, s.tmr = .armed d → s.now < d) → runMove .expire s = .refused .notEnabled) ∧
  (∀ (s : State) (d : Nat), s.tmr = .armed d → d ≤ s.now →
    runMove .expire s = exec .timerExpired { s with tmr := .disarmed }) ∧
  ∀ (s : State) (d : Nat), Consistent s → s.tmr = .armed d → d ≤ s.now →
    ∃ t, runMove .expire s = .next t ∧ t.fc = s.fc ∧
      ((s.fs = .brk ∧ t.fs = .mark) ∨ (s.fs = .mark ∧ t.fs = .data))

/-- R165, R164, for every choice of the parameters R9 leaves open: `ADVANCE(n)` moves time and nothing else; it needs
`n >= 1`, and it may not pass the deadline of an armed timer by more than the jitter bound. -/
def Obligations.AdvanceRespectsJitterBound : Prop :=
  (∀ (n : Nat) (s : State), runMove (.advance n) s = advanceWith Config.params n s) ∧
  ∀ (p : Params) (n : Nat) (s : State),
    (1 ≤ n → (s.tmr = .disarmed ∨ p.jTmrUs = none ∨
        ∃ d j, s.tmr = .armed d ∧ p.jTmrUs = some j ∧ s.now + n ≤ d + j) →
      advanceWith p n s = .next { s with now := s.now + n }) ∧
    (n = 0 ∨ (∃ d j, s.tmr = .armed d ∧ p.jTmrUs = some j ∧ d + j < s.now + n) →
      advanceWith p n s = .refused .notEnabled)

/-- R207: in a consistent state at most one of the two genuine signals is enabled. -/
def Obligations.OneGenuineSignalAtATime : Prop :=
  ∀ s : State, Consistent s → ¬ (expireEnabled s = true ∧ doneEnabled s = true)

/-! ### The line driver -/

/-- R180, R181, R182, R188: each line-mode command sets the mode, logs it, changes nothing else, and the line is at its
new level at once: low in raw low, high in raw high and in UART mode with the transmitter idle. -/
def Obligations.LineModeCommands : Prop :=
  ∀ s : State,
    (∃ t, exec .setRawLow s = .next t ∧ t = { s with lm := .rawLow, wire := s.wire ++ [.low s.now] } ∧
      lineLevel t = .low) ∧
    (∃ t, exec .setRawHigh s = .next t ∧ t = { s with lm := .rawHigh, wire := s.wire ++ [.high s.now] } ∧
      lineLevel t = .high) ∧
    ∃ t, exec .setUart s = .next t ∧ t = { s with lm := .uart, wire := s.wire ++ [.uartIdle s.now] } ∧
      (s.tx = .idle → lineLevel t = .high)

/-- R183: `TRANSMIT` with an idle transmitter starts it at byte 0 and changes nothing else; with a busy one it is refused
(decision D25). -/
def Obligations.TransmitNeedsIdleTransmitter : Prop :=
  ∀ s : State,
    (s.tx = .idle → exec .transmit s = .next { s with tx := .busy 0 s.now }) ∧
    (s.tx ≠ .idle → exec .transmit s = .refused .transmitWhileBusy)

/-- R184 (decision D5): `ABORT` stops a busy transmitter and logs it, does nothing on an idle one, and changes nothing else;
after it the cancelled call sends no slot and signals no completion. -/
def Obligations.AbortCancelsTransmission : Prop :=
  ∀ s : State,
    (s.tx ≠ .idle → exec .abort s = .next { s with tx := .idle, wire := s.wire ++ [.abort s.now] }) ∧
    (s.tx = .idle → exec .abort s = .next s) ∧
    ∀ t, exec .abort s = .next t → ∀ n,
      runMove .txSlot { t with now := n } = .refused .notEnabled ∧
      runMove .txDone { t with now := n } = .refused .notEnabled

/-- R185 (decisions D27, D33): `TX_SLOT` is taken exactly when a slot 0..512 is due; it logs the slot with the byte `TB` holds
at its index, moves to the next index, due 44 microseconds later, and changes nothing else. -/
def Obligations.TxSlotSendsNextByte : Prop :=
  (∀ (s : State) (i : Fin 514) (tn : Nat), s.tx = .busy i tn → i.val ≤ 512 → tn ≤ s.now →
    ∃ (j : Fin 514), j.val = i.val + 1 ∧ runMove .txSlot s = .next { s with
      wire := s.wire ++ [.slot s.now i.val (readTb s i.val)], tx := .busy j (s.now + 44) }) ∧
  ∀ s : State, (∀ i tn, s.tx = .busy i tn → i.val = 513 ∨ s.now < tn) → runMove .txSlot s = .refused .notEnabled

/-- R186 (decisions D7, D21): `TX_DONE` is taken exactly when all 513 slots are sent and the last is over; it logs `Done`,
frees the transmitter and delivers `TX_COMPLETE`, which ends the frame in `Data`. -/
def Obligations.TxDoneSignalsCompletion : Prop :=
  (∀ (s : State) (tn : Nat), s.tx = .busy 513 tn → tn ≤ s.now →
    runMove .txDone s = exec .txComplete { s with tx := .idle, wire := s.wire ++ [.done s.now] } ∧
    (s.fs = .data →
      runMove .txDone s = .next { s with tx := .idle, wire := s.wire ++ [.done s.now], fs := .idle })) ∧
  ∀ s : State, (∀ tn, s.tx = .busy 513 tn → s.now < tn) → runMove .txDone s = .refused .notEnabled

/-- R187, R91 (start bit and bit order are general knowledge, log 16): once a slot with byte `b` has started, with the line
in UART mode, the line carries start bit, data bits from the least significant on and two stop bits, four microseconds
each, and idles high afterwards. -/
def Obligations.LineCarriesSlotBits : Prop :=
  ∀ (s t : State) (i : Fin 514) (tn : Nat), s.tx = .busy i tn → s.lm = .uart → runMove .txSlot s = .next t →
    (∀ n, n < 4 → lineLevel { t with now := t.now + n } = .low) ∧
    (∀ k n, k < 8 → n < 4 →
      lineLevel { t with now := t.now + 4 * (k + 1) + n } =
        if (readTb s i.val).getLsbD k then Level.high else Level.low) ∧
    ∀ n, 36 ≤ n → lineLevel { t with now := t.now + n } = .high

/-! ### Invariants -/

/-- R34, R37, R38: the reset state satisfies the invariants below. -/
def Obligations.ResetStateKeepsInvariants : Prop :=
  Consistent State.reset ∧ WireTimed Config.params State.reset ∧ FaultFree State.reset

/-- R37: every step from a consistent state, spurious signals and resets included, leads to a consistent state. `Consistent`
says I7 for the frame in progress; that index 0 of `TB` keeps its 0 afterwards, from the first `TICK` that wrote it
(`TickStartsFrame`) up to a `RESET`, which draws `TB` anew (R134), is the second half. -/
def Obligations.StepKeepsConsistent : Prop :=
  ∀ s t : State, Consistent s → step s = .next t →
    Consistent t ∧ (readTb s 0 = 0 → (nextMove s).presents .reset = false → readTb t 0 = 0)

/-- R62, R185, R186: every step keeps the wire log in order, spurious signals included: no mark without a break just before
it, slot 0 only just after a break and its mark, the other slots in ascending order and at least 44 microseconds apart,
completion only after slot 512 is over. -/
def Obligations.StepKeepsWireOrder : Prop :=
  ∀ s t : State, WireOrdered s → step s = .next t → WireOrdered t

/-- R163, under `NoSpurious` of R13: every step keeps the protocol's minimum durations: the line is low for at least
`T_BREAK_US` before each mark, and high for at least `T_MAB_US` before each slot 0. -/
def Obligations.StepKeepsMinimumDurations : Prop :=
  ∀ s t : State, WireTimed Config.params s → (nextMove s).spurious = false → step s = .next t →
    WireTimed Config.params t

/-- R38, under `NoSpurious` and `NoStall` of R13: no fault is ever counted, the transmitter is busy exactly in `Data`, and
the timer is armed exactly in `Break` and `Mark`. -/
def Obligations.StepKeepsFaultFree : Prop :=
  ∀ s t : State, FaultFree s → (nextMove s).spurious = false → noStallAt s → step s = .next t → FaultFree t

/-! ### Whole frames and whole runs -/

/-- Properties T1 and T2 of spec/95_test_vectors.md, R65: take any agents' moves, producer writes, spurious signals and
resets among them, after a `TICK` that started a frame and before the next frame starts: every slot they put on the wire
carries the Channel Buffer's byte as it stood just before that `TICK`, and slot 0 carries 0. -/
def Obligations.SnapshotIsolation : Prop :=
  ∀ (s s₁ t : State) (ms : List Move), s.fs = .idle → s.tx = .idle → exec .tick s = .next s₁ →
    (∀ m ∈ ms, m.internal = false) → runMoves ms s₁ = .next t → (∀ k, .low k ∉ gained s₁ t) →
    ∀ k i b, .slot k i b ∈ gained s₁ t → i ≤ 512 ∧ b = if i = 0 then 0 else readCb s i

/-- Scenario S1 of spec/95_test_vectors.md, R246 with all lateness zero: from every state in `Idle` with the transmitter
idle, the eager schedule runs to its end without a stop and puts exactly one complete frame on the wire, with the channel
bytes of the start and the derived times, and no fault. -/
def Obligations.EagerFrameReachesTheWire : Prop :=
  ∀ s : State, s.fs = .idle → s.tx = .idle → ∃ t,
    runMoves (eagerFrame Config.params) s = .next t ∧
    t.wire = s.wire ++ frameWire Config.params s.now (readCb s) ∧
    t.fs = .idle ∧ t.tx = .idle ∧ t.tmr = .disarmed ∧ t.lm = .uart ∧ t.fc = s.fc ∧ t.flog = s.flog ∧
    t.cb = s.cb ∧ t.fst = s.now ∧
    t.now = s.now + Config.params.tBreakUs + Config.params.tMabUs + Config.tDataMinUs

/-- Property T6 of spec/95_test_vectors.md, R135: `TICK`, two timer signals and a completion signal, injected, visit
`Break`, `Mark`, `Data` and `Idle` with the Fault Counter unchanged, from every state in `Idle` with the transmitter idle. -/
def Obligations.InjectedSignalsCompleteACycle : Prop :=
  ∀ s : State, s.fs = .idle → s.tx = .idle → ∃ s₁ s₂ s₃ s₄,
    exec .tick s = .next s₁ ∧ exec .timerExpired s₁ = .next s₂ ∧ exec .timerExpired s₂ = .next s₃ ∧
    exec .txComplete s₃ = .next s₄ ∧
    s₁.fs = .brk ∧ s₂.fs = .mark ∧ s₃.fs = .data ∧ s₄.fs = .idle ∧
    s₁.fc = s.fc ∧ s₂.fc = s.fc ∧ s₃.fc = s.fc ∧ s₄.fc = s.fc ∧ s₄.flog = s.flog ∧ s₄.cb = s.cb

/-- R60, R65: outside the frame-start case of `TICK`, no move but a producer operation looks at the Channel Buffer: with
another Channel Buffer the step stops in the same way, or leads to the same state but for that buffer. -/
def Obligations.ChannelBufferNeverInfluencesFrame : Prop :=
  ∀ (m : Move) (s : State) (cb' : Memory),
    (∀ c w i, m = .request c w → decode w = .op i → classOf i ≠ .producer ∧ i ≠ .reset) →
    (m.presents .tick = true → s.fs ≠ .idle ∨ busy s = true) →
    match runMove m s with
    | .next t => runMove m { s with cb := cb' } = .next { t with cb := cb' } ∧ t.cb = s.cb
    | .fault r => runMove m { s with cb := cb' } = .fault r
    | .refused r => runMove m { s with cb := cb' } = .refused r

/-- R20: no operation's behaviour depends on a ghost field: with other logs `WIRE` and `FLOG` the move stops in the same
way, or leads to the same state but for the logs, and adds the same entries to `WIRE`. -/
def Obligations.GhostLogsNeverInfluence : Prop :=
  ∀ (m : Move) (s : State) (wire' : List WireEntry) (flog' : List (FaultCause × FrameState)),
    match runMove m s with
    | .next t => ∃ added flog'', t.wire = s.wire ++ added ∧
        runMove m { s with wire := wire', flog := flog' } =
          .next { t with wire := wire' ++ added, flog := flog'' }
    | .fault r => runMove m { s with wire := wire', flog := flog' } = .fault r
    | .refused r => runMove m { s with wire := wire', flog := flog' } = .refused r

/-- R24, R29, R30, R37 (I6): only `RESET` and a fault change the Fault Counter, a fault by exactly one together with one
entry of the fault log; only `ADVANCE` changes the time, and forward; the wire log only grows. -/
def Obligations.CountersMoveForward : Prop :=
  ∀ (m : Move) (s t : State), runMove m s = .next t →
    ((t.fc = s.fc ∧ t.flog = s.flog) ∨ (t.fc = s.fc + 1 ∧ ∃ c, t.flog = s.flog ++ [(c, s.fs)]) ∨
      (m.presents .reset = true ∧ t.fc = 0 ∧ t.flog = [])) ∧
    ((∃ n, 1 ≤ n ∧ m = .advance n ∧ t.now = s.now + n) ∨ t.now = s.now) ∧
    ∃ added, t.wire = s.wire ++ added

/-- R211, R217: nothing blocks the machine. From every consistent state each operation that an agent's context may present
answers a next state, whatever its operands, and so do the word that presents it and every enabled autonomous step;
`EXPIRE` is enabled or one microsecond can pass. -/
def Obligations.AgentsAreNeverBlocked : Prop :=
  ∀ s : State, Consistent s →
    (∀ (c : Context) (i : Instr), c ≠ .commandPort → mayRequest c i = true →
      ∃ t, exec i s = .next t ∧ ∀ w : RequestWord, decode w = .op i → runMove (.request c w) s = .next t) ∧
    (expireEnabled s = true → ∃ t, runMove .expire s = .next t) ∧
    (slotEnabled s = true → ∃ t, runMove .txSlot s = .next t) ∧
    (doneEnabled s = true → ∃ t, runMove .txDone s = .next t) ∧
    (expireEnabled s = true ∨ runMove (.advance 1) s = .next { s with now := s.now + 1 })

/-- R136, R62, under `NoSpurious` and `NoStall` of R13 and with no `RESET`: from a fault-free state every move either
carries the cycle `Idle`, `Break`, `Mark`, slots 0 to 512, completion, `Idle` on by exactly one place or leaves its place as
it is, and the Fault Counter never changes. -/
def Obligations.CycleAdvancesInOrder : Prop :=
  ∀ (m : Move) (s t : State), FaultFree s → m.internal = false → m.spurious = false → m.presents .reset = false →
    (m.presents .tick = true → s.fs ≠ .idle → stalled Config.params s = false) → runMove m s = .next t →
    cyclePosition t = (if movesCycle m s then (cyclePosition s + 1) % 517 else cyclePosition s) ∧ t.fc = s.fc

/-- R136, the bounded form of "always progresses": from every fault-free state with a frame in progress, the autonomous
steps alone can bring the frame to its end, with at most one passage of time before each, and no fault. -/
def Obligations.FrameInProgressCanFinish : Prop :=
  ∀ s : State, FaultFree s → s.fs ≠ .idle → ∃ ms t,
    (∀ m ∈ ms, autonomous m = true) ∧ onePassageEach ms ∧ ms.length ≤ 2 * (517 - cyclePosition s) ∧
    runMoves ms s = .next t ∧ t.fs = .idle ∧ t.tx = .idle ∧ t.fc = s.fc ∧ t.cb = s.cb ∧ t.tb = s.tb

/-- R89, R33 (encoding of decision D28): the response word of every producer operation has `STATUS` 1 exactly for
`InvalidAddress` and 0 otherwise, and `DATA` the byte read for a successful `GET` and 0 otherwise. -/
def Obligations.ResponseWordFields : Prop :=
  ∀ (i : Instr) (s t : State), classOf i = .producer → exec i s = .next t →
    ∃ r, t.response = some r ∧
      ((responseWord r).extractLsb' 8 8 = if r = .invalidAddress then 1 else 0) ∧
      ((responseWord r).extractLsb' 0 8 =
        match i with
        | .get a => if 1 ≤ a ∧ a ≤ 512 then readCb s a.toNat else 0
        | _ => 0)

/-- R33, R206: the two status bits are set and cleared by the commands and steps the rule names. -/
def Obligations.StatusBitsFollowCommands : Prop :=
  (∀ (d : Nat) (s t : State), exec (.arm d) s = .next t → armed t = true ∧ busy t = busy s) ∧
  (∀ s t : State, exec .disarm s = .next t → armed t = false ∧ busy t = busy s) ∧
  (∀ s t : State, exec .transmit s = .next t → busy t = true ∧ armed t = armed s) ∧
  (∀ s t : State, exec .abort s = .next t → busy t = false ∧ armed t = armed s) ∧
  (∀ s t : State, exec .reset s = .next t → busy t = false ∧ armed t = false) ∧
  (∀ s t : State, runMove .txDone s = .next t → busy t = false) ∧
  ∀ s t : State, runMove .expire s = .next t → armed t = true → s.fs = .brk ∧ t.fs = .mark

/-- R86, R87, R88 (numbers of decisions D14, D16): the codes of the Frame State, the line mode and the errors; line-mode
code 3 is no mode, bit 1 of a line-mode code is the multiplexer's select, and error code 0 means no error. -/
def Obligations.StateAndErrorCodes : Prop :=
  frameStateCode .idle = 0 ∧ frameStateCode .brk = 1 ∧ frameStateCode .mark = 2 ∧ frameStateCode .data = 3 ∧
  lineModeCode .rawLow = 0 ∧ lineModeCode .rawHigh = 1 ∧ lineModeCode .uart = 2 ∧
  (∀ l : LineMode, lineModeOfCode (lineModeCode l) = some l) ∧ lineModeOfCode 3 = none ∧
  (∀ l : LineMode, (lineModeCode l).getLsbD 1 = true ↔ l = .uart) ∧
  errorCode none = 0 ∧ errorCode (some .invalidAddress) = 1 ∧ errorCode (some .outOfRangeValue) = 2 ∧
  errorCode (some (faultName .unexpectedSignal)) = 3 ∧ errorCode (some (faultName .stalledFrame)) = 4
end

