-- ==== Sys2Proof/Laws/Memory.lean ====
section
/-! SUPPORT. The laws of byte memory: a read after a write (for every memory, canonical or not), and that every
operation keeps the canonical form. -/

namespace Sys2Proof.Machine

@[simp] theorem Memory.read_nil (k : Nat) : Memory.read [] k = 0#8 := rfl

theorem Memory.read_cons (a : Nat) (b : Byte) (m : Memory) (k : Nat) :
    Memory.read ((a, b) :: m) k = if k = a then b else Memory.read m k := rfl

/-- An address that is not listed reads 0. -/
theorem Memory.read_unlisted {m : Memory} {k : Nat} (h : ∀ c ∈ m, c.1 ≠ k) : m.read k = 0#8 := by
  induction m with
  | nil => rfl
  | cons c m ih =>
    have hk : k ≠ c.1 := fun e => h c (by simp) e.symm
    have hm : Memory.read m k = 0#8 := ih fun d hd => h d (by simp [hd])
    simp [Memory.read, hk, hm]

/-- Keeping only some of the entries keeps what a kept address reads as. -/
theorem Memory.read_filter (p : Nat → Bool) (m : Memory) (k : Nat) :
    Memory.read (m.filter fun c => p c.1) k = if p k then m.read k else 0#8 := by
  induction m with
  | nil => simp
  | cons c m ih =>
    obtain ⟨a, b⟩ := c
    by_cases hp : p a <;> by_cases hk : k = a <;> simp_all [Memory.read_cons]

theorem Memory.read_erase (m : Memory) (k j : Nat) :
    (m.erase k).read j = if j = k then 0#8 else m.read j := by
  have h := Memory.read_filter (fun a => decide (a ≠ k)) m j
  by_cases hj : j = k <;> simp_all [Memory.erase]

theorem Memory.erase_unlisted (m : Memory) (k : Nat) : ∀ c ∈ m.erase k, c.1 ≠ k := by
  intro c hc
  simpa using (List.mem_filter.mp hc).2

theorem Memory.read_insert {m : Memory} {k : Nat} (v : Byte) (j : Nat) (h : ∀ c ∈ m, c.1 ≠ k) :
    (m.insert k v).read j = if j = k then v else m.read j := by
  induction m with
  | nil => simp [Memory.insert, Memory.read]
  | cons c m ih =>
    obtain ⟨a, b⟩ := c
    have hak : a ≠ k := h (a, b) (by simp)
    have ihm := ih fun d hd => h d (by simp [hd])
    by_cases hlt : k < a
    · simp [Memory.insert, hlt, Memory.read_cons]
    · by_cases hj : j = a
      · simp [Memory.insert, hlt, Memory.read_cons, hj, hak]
      · simp [Memory.insert, hlt, Memory.read_cons, hj, ihm]

/-- A read after a write: the written address gives the byte written, every other address what it gave before. -/
theorem Memory.read_write (m : Memory) (k : Nat) (v : Byte) (j : Nat) :
    (m.write k v).read j = if j = k then v else m.read j := by
  by_cases hv : v = 0#8
  · simp [Memory.write, hv, Memory.read_erase]
  · rw [Memory.write, if_neg hv, Memory.read_insert v j (Memory.erase_unlisted m k), Memory.read_erase]
    split <;> rfl

@[simp] theorem Memory.read_write_same (m : Memory) (k : Nat) (v : Byte) : (m.write k v).read k = v := by
  simp [Memory.read_write]

theorem Memory.read_write_other (m : Memory) {k j : Nat} (v : Byte) (h : j ≠ k) :
    (m.write k v).read j = m.read j := by
  simp [Memory.read_write, h]

theorem Memory.read_map_pair (l : List Nat) (v : Byte) (k : Nat) :
    Memory.read (l.map fun a => (a, v)) k = if k ∈ l then v else 0#8 := by
  induction l with
  | nil => simp
  | cons a l ih => by_cases h : k = a <;> simp [Memory.read_cons, h, ih]

/-- What a filled memory reads as. -/
theorem Memory.read_fill (lo n : Nat) (v : Byte) (k : Nat) :
    (Memory.fill lo n v).read k = if lo ≤ k ∧ k < lo + n then v else 0#8 := by
  by_cases hv : v = 0#8
  · simp [Memory.fill, hv]
  · simp [Memory.fill, hv, Memory.read_map_pair]

theorem Memory.read_restrict (lo hi : Nat) (m : Memory) (k : Nat) :
    (m.restrict lo hi).read k = if lo ≤ k ∧ k ≤ hi then m.read k else 0#8 := by
  have h := Memory.read_filter (fun a => decide (lo ≤ a) && decide (a ≤ hi)) m k
  simpa [Memory.restrict] using h

theorem Memory.mem_ofFn {n : Nat} {f : Nat → Byte} {c : Host.Cell} :
    c ∈ Memory.ofFn n f ↔ c.1 < n ∧ f c.1 = c.2 ∧ c.2 ≠ 0#8 := by
  obtain ⟨a, b⟩ := c
  simp only [Memory.ofFn, List.mem_filterMap, List.mem_range]
  constructor
  · rintro ⟨i, hi, h⟩
    by_cases h0 : f i = 0#8
    · simp [h0] at h
    · rw [if_neg h0, Option.some_inj] at h
      obtain ⟨rfl, rfl⟩ := Prod.mk.inj h
      exact ⟨hi, rfl, h0⟩
  · rintro ⟨hi, rfl, h0⟩
    exact ⟨a, hi, by simp [h0]⟩

/-- Taking out an unlisted address changes nothing. -/
theorem Memory.erase_of_unlisted {m : Memory} {k : Nat} (h : ∀ c ∈ m, c.1 ≠ k) : m.erase k = m := by
  rw [Memory.erase, List.filter_eq_self]
  intro c hc
  simpa using h c hc

/-- Taking out what was put in gives the list back. -/
theorem Memory.erase_insert {m : Memory} {k : Nat} (v : Byte) (h : ∀ c ∈ m, c.1 ≠ k) :
    Memory.erase (m.insert k v) k = m := by
  induction m with
  | nil => simp [Memory.insert, Memory.erase]
  | cons c m ih =>
    obtain ⟨a, b⟩ := c
    have hak : a ≠ k := h (a, b) (by simp)
    have hm : ∀ c ∈ m, c.1 ≠ k := fun c hc => h c (by simp [hc])
    have hi := ih hm
    have he := Memory.erase_of_unlisted hm
    unfold Memory.erase at hi he ⊢
    by_cases hlt : k < a
    · rw [Memory.insert, if_pos hlt, List.filter_cons_of_neg (by simp), List.filter_cons_of_pos (by simpa using hak), he]
    · rw [Memory.insert, if_neg hlt, List.filter_cons_of_pos (by simpa using hak), hi]

/-- Writing the same byte twice is writing it once (R58). -/
theorem Memory.write_write (m : Memory) (k : Nat) (v : Byte) : (m.write k v).write k v = m.write k v := by
  by_cases hv : v = 0#8
  · simp only [Memory.write, if_pos hv, Memory.erase_of_unlisted (Memory.erase_unlisted m k)]
  · simp only [Memory.write, if_neg hv, Memory.erase_insert v (Memory.erase_unlisted m k)]

/-! ### The canonical form -/

theorem Memory.wf_nil : Memory.wf [] := ⟨List.Pairwise.nil, by simp⟩

theorem Memory.wf_filter {m : Memory} (p : Host.Cell → Bool) (h : m.wf) : Memory.wf (m.filter p) :=
  ⟨h.1.filter p, fun c hc => h.2 c (List.mem_of_mem_filter hc)⟩

theorem Memory.mem_insert {m : Memory} {k : Nat} {v : Byte} {c : Host.Cell} :
    c ∈ m.insert k v ↔ c = (k, v) ∨ c ∈ m := by
  induction m with
  | nil => simp [Memory.insert]
  | cons d m ih =>
    obtain ⟨a, b⟩ := d
    by_cases hlt : k < a <;> simp [Memory.insert, hlt, ih]
    tauto

theorem Memory.wf_insert {m : Memory} {k : Nat} {v : Byte} (h : m.wf) (hv : v ≠ 0#8) (hk : ∀ c ∈ m, c.1 ≠ k) :
    (m.insert k v).wf := by
  refine ⟨?_, fun c hc => ?_⟩
  · obtain ⟨hp, -⟩ := h
    induction m with
    | nil => simp [Memory.insert]
    | cons d m ih =>
      obtain ⟨a, b⟩ := d
      obtain ⟨ha, hp⟩ := List.pairwise_cons.mp hp
      have hak : a ≠ k := hk (a, b) (by simp)
      by_cases hlt : k < a
      · simp only [Memory.insert, hlt, if_true]
        refine List.Pairwise.cons (fun c hc => ?_) (List.Pairwise.cons ha hp)
        rcases List.mem_cons.mp hc with rfl | hc
        · exact hlt
        · exact Nat.lt_trans hlt (ha c hc)
      · simp only [Memory.insert, hlt, if_false]
        refine List.Pairwise.cons (fun c hc => ?_) (ih (fun c hc => hk c (by simp [hc])) hp)
        rcases Memory.mem_insert.mp hc with rfl | hc
        · exact Nat.lt_of_le_of_ne (Nat.le_of_not_lt hlt) hak
        · exact ha c hc
  · rcases Memory.mem_insert.mp hc with rfl | hc
    · exact hv
    · exact h.2 c hc

theorem Memory.wf_write {m : Memory} (k : Nat) (v : Byte) (h : m.wf) : (m.write k v).wf := by
  have he : (m.erase k).wf := Memory.wf_filter _ h
  by_cases hv : v = 0#8
  · simpa [Memory.write, hv] using he
  · simpa [Memory.write, hv] using Memory.wf_insert he hv (Memory.erase_unlisted m k)

theorem Memory.wf_fill (lo n : Nat) (v : Byte) : (Memory.fill lo n v).wf := by
  by_cases hv : v = 0#8
  · simpa [Memory.fill, hv] using Memory.wf_nil
  · rw [Memory.fill, if_neg hv]
    refine ⟨?_, fun c hc => by obtain ⟨a, -, rfl⟩ := List.mem_map.mp hc; exact hv⟩
    rw [List.pairwise_map]
    exact List.pairwise_lt_range' ..

theorem Memory.wf_restrict (lo hi : Nat) {m : Memory} (h : m.wf) : (m.restrict lo hi).wf := Memory.wf_filter _ h

theorem Memory.wf_ofFn (n : Nat) (f : Nat → Byte) : (Memory.ofFn n f).wf := by
  refine ⟨?_, fun c hc => (Memory.mem_ofFn.mp hc).2.2⟩
  rw [Memory.ofFn, List.pairwise_filterMap]
  refine List.Pairwise.imp ?_ List.pairwise_lt_range
  intro i j hij c hc d hd
  by_cases hi : f i = 0#8
  · simp [hi] at hc
  · by_cases hj : f j = 0#8
    · simp [hj] at hd
    · simp only [hi, hj, if_false, Option.some_inj] at hc hd
      subst hc hd
      exact hij

/-! ### The range of addresses -/

theorem Memory.within_write {lo hi k : Nat} {m : Memory} (v : Byte) (h : m.within lo hi) (hk : lo ≤ k ∧ k ≤ hi) :
    (m.write k v).within lo hi := by
  have he : (m.erase k).within lo hi := fun c hc => h c (List.mem_of_mem_filter hc)
  intro c hc
  by_cases hv : v = 0#8
  · exact he c (by simpa [Memory.write, hv] using hc)
  · rw [Memory.write, if_neg hv] at hc
    rcases Memory.mem_insert.mp hc with rfl | hc
    · exact hk
    · exact he c hc

theorem Memory.within_fill (lo n : Nat) (v : Byte) : (Memory.fill lo n v).within lo (lo + n - 1) := by
  intro c hc
  by_cases hv : v = 0#8
  · simp [Memory.fill, hv] at hc
  · simp only [Memory.fill, hv, if_false, List.mem_map, List.mem_range'_1] at hc
    obtain ⟨a, ha, rfl⟩ := hc
    simp only
    omega

theorem Memory.within_restrict (lo hi : Nat) (m : Memory) : (m.restrict lo hi).within lo hi := by
  intro c hc
  simpa [Memory.restrict] using (List.mem_filter.mp hc).2

/-- What a memory made from a function reads as. -/
theorem Memory.read_ofFn (n : Nat) (f : Nat → Byte) (k : Nat) :
    (Memory.ofFn n f).read k = if k < n then f k else 0#8 := by
  induction n with
  | zero => simp [Memory.ofFn]
  | succ n ih =>
    have happ : ∀ (m l : Memory) (j : Nat), (∀ c ∈ m, c.1 ≠ j) → Memory.read (m ++ l) j = l.read j := by
      intro m l j hm
      induction m with
      | nil => rfl
      | cons c m ihm =>
        have hc : j ≠ c.1 := fun e => hm c (by simp) e.symm
        have := ihm fun d hd => hm d (by simp [hd])
        simpa [Memory.read, hc] using this
    have hpre : ∀ (m l : Memory) (j : Nat), (∀ c ∈ l, c.1 ≠ j) → Memory.read (m ++ l) j = m.read j := by
      intro m l j hl
      induction m with
      | nil => simpa using Memory.read_unlisted hl
      | cons c m ihm => obtain ⟨a, b⟩ := c; simp [Memory.read_cons, ihm]
    have hsplit : Memory.ofFn (n + 1) f = Memory.ofFn n f ++ (if f n = 0#8 then [] else [(n, f n)]) := by
      by_cases h0 : f n = 0#8 <;> simp [Memory.ofFn, List.range_succ, h0]
    by_cases hk : k = n
    · subst hk
      rw [hsplit, happ _ _ k (fun c hc => by have := (Memory.mem_ofFn.mp hc).1; omega)]
      by_cases h0 : f k = 0#8 <;> simp [h0, Memory.read_cons]
    · rw [hsplit, hpre _ _ k (fun c hc => by split at hc <;> simp_all; omega), ih]
      have : k < n + 1 ↔ k < n := by omega
      simp [this]

theorem Memory.within_ofFn (n : Nat) (f : Nat → Byte) : (Memory.ofFn n f).within 0 (n - 1) := by
  intro c hc
  have := (Memory.mem_ofFn.mp hc).1
  omega

end Sys2Proof.Machine
end

