-- ==== Sys2Proof/Laws/State.lean ====
section
/-! SUPPORT. One lemma per field for each update of the state, so that no proof unfolds a record update; and the small
lemmas of the derived bits `busy` and `armed`. -/

namespace Sys2Proof.Machine

/-! ### The derived bits -/

theorem busy_eq_false {s : State} : busy s = false ↔ s.tx = .idle := by
  unfold busy; split <;> simp_all

theorem busy_eq_true {s : State} : busy s = true ↔ ∃ i tn, s.tx = .busy i tn := by
  unfold busy; split <;> simp_all

/-- `BUSY` depends on `TX` alone. -/
theorem busy_congr {s t : State} (h : s.tx = t.tx) : busy s = busy t := by simp [busy, h]

theorem armed_eq_false {s : State} : armed s = false ↔ s.tmr = .disarmed := by
  unfold armed; split <;> simp_all

theorem armed_eq_true {s : State} : armed s = true ↔ ∃ d, s.tmr = .armed d := by
  unfold armed; split <;> simp_all

/-- `ARMED` depends on `TMR` alone. -/
theorem armed_congr {s t : State} (h : s.tmr = t.tmr) : armed s = armed t := by simp [armed, h]

/-! ### `respond` -/

@[simp] theorem respond_cb (r : Response) (s : State) : (respond r s).cb = s.cb := rfl
@[simp] theorem respond_tb (r : Response) (s : State) : (respond r s).tb = s.tb := rfl
@[simp] theorem respond_fs (r : Response) (s : State) : (respond r s).fs = s.fs := rfl
@[simp] theorem respond_fc (r : Response) (s : State) : (respond r s).fc = s.fc := rfl
@[simp] theorem respond_tmr (r : Response) (s : State) : (respond r s).tmr = s.tmr := rfl
@[simp] theorem respond_lm (r : Response) (s : State) : (respond r s).lm = s.lm := rfl
@[simp] theorem respond_tx (r : Response) (s : State) : (respond r s).tx = s.tx := rfl
@[simp] theorem respond_fst (r : Response) (s : State) : (respond r s).fst = s.fst := rfl
@[simp] theorem respond_now (r : Response) (s : State) : (respond r s).now = s.now := rfl
@[simp] theorem respond_wire (r : Response) (s : State) : (respond r s).wire = s.wire := rfl
@[simp] theorem respond_flog (r : Response) (s : State) : (respond r s).flog = s.flog := rfl
@[simp] theorem respond_response (r : Response) (s : State) : (respond r s).response = some r := rfl
@[simp] theorem respond_trace (r : Response) (s : State) : (respond r s).trace = s.trace := rfl
@[simp] theorem respond_draws (r : Response) (s : State) : (respond r s).draws = s.draws := rfl

/-! ### `writeCb` -/

@[simp] theorem writeCb_cb (a : Nat) (v : Byte) (s : State) : (writeCb a v s).cb = s.cb.write a v := rfl
@[simp] theorem writeCb_tb (a : Nat) (v : Byte) (s : State) : (writeCb a v s).tb = s.tb := rfl
@[simp] theorem writeCb_fs (a : Nat) (v : Byte) (s : State) : (writeCb a v s).fs = s.fs := rfl
@[simp] theorem writeCb_fc (a : Nat) (v : Byte) (s : State) : (writeCb a v s).fc = s.fc := rfl
@[simp] theorem writeCb_tmr (a : Nat) (v : Byte) (s : State) : (writeCb a v s).tmr = s.tmr := rfl
@[simp] theorem writeCb_lm (a : Nat) (v : Byte) (s : State) : (writeCb a v s).lm = s.lm := rfl
@[simp] theorem writeCb_tx (a : Nat) (v : Byte) (s : State) : (writeCb a v s).tx = s.tx := rfl
@[simp] theorem writeCb_fst (a : Nat) (v : Byte) (s : State) : (writeCb a v s).fst = s.fst := rfl
@[simp] theorem writeCb_now (a : Nat) (v : Byte) (s : State) : (writeCb a v s).now = s.now := rfl
@[simp] theorem writeCb_wire (a : Nat) (v : Byte) (s : State) : (writeCb a v s).wire = s.wire := rfl
@[simp] theorem writeCb_flog (a : Nat) (v : Byte) (s : State) : (writeCb a v s).flog = s.flog := rfl
@[simp] theorem writeCb_response (a : Nat) (v : Byte) (s : State) : (writeCb a v s).response = s.response := rfl
@[simp] theorem writeCb_trace (a : Nat) (v : Byte) (s : State) : (writeCb a v s).trace = s.trace := rfl
@[simp] theorem writeCb_draws (a : Nat) (v : Byte) (s : State) : (writeCb a v s).draws = s.draws := rfl

/-! ### `fillCb` -/

@[simp] theorem fillCb_cb (v : Byte) (s : State) : (fillCb v s).cb = Memory.fill Config.addrMin Config.nCh v := rfl
@[simp] theorem fillCb_tb (v : Byte) (s : State) : (fillCb v s).tb = s.tb := rfl
@[simp] theorem fillCb_fs (v : Byte) (s : State) : (fillCb v s).fs = s.fs := rfl
@[simp] theorem fillCb_fc (v : Byte) (s : State) : (fillCb v s).fc = s.fc := rfl
@[simp] theorem fillCb_tmr (v : Byte) (s : State) : (fillCb v s).tmr = s.tmr := rfl
@[simp] theorem fillCb_lm (v : Byte) (s : State) : (fillCb v s).lm = s.lm := rfl
@[simp] theorem fillCb_tx (v : Byte) (s : State) : (fillCb v s).tx = s.tx := rfl
@[simp] theorem fillCb_fst (v : Byte) (s : State) : (fillCb v s).fst = s.fst := rfl
@[simp] theorem fillCb_now (v : Byte) (s : State) : (fillCb v s).now = s.now := rfl
@[simp] theorem fillCb_wire (v : Byte) (s : State) : (fillCb v s).wire = s.wire := rfl
@[simp] theorem fillCb_flog (v : Byte) (s : State) : (fillCb v s).flog = s.flog := rfl
@[simp] theorem fillCb_response (v : Byte) (s : State) : (fillCb v s).response = s.response := rfl
@[simp] theorem fillCb_trace (v : Byte) (s : State) : (fillCb v s).trace = s.trace := rfl
@[simp] theorem fillCb_draws (v : Byte) (s : State) : (fillCb v s).draws = s.draws := rfl

/-! ### `takeSnapshot` -/

@[simp] theorem takeSnapshot_cb (s : State) : (takeSnapshot s).cb = s.cb := rfl
@[simp] theorem takeSnapshot_tb (s : State) : (takeSnapshot s).tb = Memory.restrict Config.addrMin Config.addrMax s.cb := rfl
@[simp] theorem takeSnapshot_fs (s : State) : (takeSnapshot s).fs = s.fs := rfl
@[simp] theorem takeSnapshot_fc (s : State) : (takeSnapshot s).fc = s.fc := rfl
@[simp] theorem takeSnapshot_tmr (s : State) : (takeSnapshot s).tmr = s.tmr := rfl
@[simp] theorem takeSnapshot_lm (s : State) : (takeSnapshot s).lm = s.lm := rfl
@[simp] theorem takeSnapshot_tx (s : State) : (takeSnapshot s).tx = s.tx := rfl
@[simp] theorem takeSnapshot_fst (s : State) : (takeSnapshot s).fst = s.fst := rfl
@[simp] theorem takeSnapshot_now (s : State) : (takeSnapshot s).now = s.now := rfl
@[simp] theorem takeSnapshot_wire (s : State) : (takeSnapshot s).wire = s.wire := rfl
@[simp] theorem takeSnapshot_flog (s : State) : (takeSnapshot s).flog = s.flog := rfl
@[simp] theorem takeSnapshot_response (s : State) : (takeSnapshot s).response = s.response := rfl
@[simp] theorem takeSnapshot_trace (s : State) : (takeSnapshot s).trace = s.trace := rfl
@[simp] theorem takeSnapshot_draws (s : State) : (takeSnapshot s).draws = s.draws := rfl

/-! ### `emit` -/

@[simp] theorem emit_cb (e : WireEntry) (s : State) : (emit e s).cb = s.cb := rfl
@[simp] theorem emit_tb (e : WireEntry) (s : State) : (emit e s).tb = s.tb := rfl
@[simp] theorem emit_fs (e : WireEntry) (s : State) : (emit e s).fs = s.fs := rfl
@[simp] theorem emit_fc (e : WireEntry) (s : State) : (emit e s).fc = s.fc := rfl
@[simp] theorem emit_tmr (e : WireEntry) (s : State) : (emit e s).tmr = s.tmr := rfl
@[simp] theorem emit_lm (e : WireEntry) (s : State) : (emit e s).lm = s.lm := rfl
@[simp] theorem emit_tx (e : WireEntry) (s : State) : (emit e s).tx = s.tx := rfl
@[simp] theorem emit_fst (e : WireEntry) (s : State) : (emit e s).fst = s.fst := rfl
@[simp] theorem emit_now (e : WireEntry) (s : State) : (emit e s).now = s.now := rfl
@[simp] theorem emit_wire (e : WireEntry) (s : State) : (emit e s).wire = s.wire ++ [e] := rfl
@[simp] theorem emit_flog (e : WireEntry) (s : State) : (emit e s).flog = s.flog := rfl
@[simp] theorem emit_response (e : WireEntry) (s : State) : (emit e s).response = s.response := rfl
@[simp] theorem emit_trace (e : WireEntry) (s : State) : (emit e s).trace = s.trace := rfl
@[simp] theorem emit_draws (e : WireEntry) (s : State) : (emit e s).draws = s.draws := rfl

/-! ### `logFault` -/

@[simp] theorem logFault_cb (c : FaultCause) (s : State) : (logFault c s).cb = s.cb := rfl
@[simp] theorem logFault_tb (c : FaultCause) (s : State) : (logFault c s).tb = s.tb := rfl
@[simp] theorem logFault_fs (c : FaultCause) (s : State) : (logFault c s).fs = s.fs := rfl
@[simp] theorem logFault_fc (c : FaultCause) (s : State) : (logFault c s).fc = s.fc := rfl
@[simp] theorem logFault_tmr (c : FaultCause) (s : State) : (logFault c s).tmr = s.tmr := rfl
@[simp] theorem logFault_lm (c : FaultCause) (s : State) : (logFault c s).lm = s.lm := rfl
@[simp] theorem logFault_tx (c : FaultCause) (s : State) : (logFault c s).tx = s.tx := rfl
@[simp] theorem logFault_fst (c : FaultCause) (s : State) : (logFault c s).fst = s.fst := rfl
@[simp] theorem logFault_now (c : FaultCause) (s : State) : (logFault c s).now = s.now := rfl
@[simp] theorem logFault_wire (c : FaultCause) (s : State) : (logFault c s).wire = s.wire := rfl
@[simp] theorem logFault_flog (c : FaultCause) (s : State) : (logFault c s).flog = s.flog ++ [(c, s.fs)] := rfl
@[simp] theorem logFault_response (c : FaultCause) (s : State) : (logFault c s).response = s.response := rfl
@[simp] theorem logFault_trace (c : FaultCause) (s : State) : (logFault c s).trace = s.trace := rfl
@[simp] theorem logFault_draws (c : FaultCause) (s : State) : (logFault c s).draws = s.draws := rfl

/-! ### `enterFrame` -/

@[simp] theorem enterFrame_cb (f : FrameState) (s : State) : (enterFrame f s).cb = s.cb := rfl
@[simp] theorem enterFrame_tb (f : FrameState) (s : State) : (enterFrame f s).tb = s.tb := rfl
@[simp] theorem enterFrame_fs (f : FrameState) (s : State) : (enterFrame f s).fs = f := rfl
@[simp] theorem enterFrame_fc (f : FrameState) (s : State) : (enterFrame f s).fc = s.fc := rfl
@[simp] theorem enterFrame_tmr (f : FrameState) (s : State) : (enterFrame f s).tmr = s.tmr := rfl
@[simp] theorem enterFrame_lm (f : FrameState) (s : State) : (enterFrame f s).lm = s.lm := rfl
@[simp] theorem enterFrame_tx (f : FrameState) (s : State) : (enterFrame f s).tx = s.tx := rfl
@[simp] theorem enterFrame_fst (f : FrameState) (s : State) : (enterFrame f s).fst = s.fst := rfl
@[simp] theorem enterFrame_now (f : FrameState) (s : State) : (enterFrame f s).now = s.now := rfl
@[simp] theorem enterFrame_wire (f : FrameState) (s : State) : (enterFrame f s).wire = s.wire := rfl
@[simp] theorem enterFrame_flog (f : FrameState) (s : State) : (enterFrame f s).flog = s.flog := rfl
@[simp] theorem enterFrame_response (f : FrameState) (s : State) : (enterFrame f s).response = s.response := rfl
@[simp] theorem enterFrame_trace (f : FrameState) (s : State) : (enterFrame f s).trace = s.trace := rfl
@[simp] theorem enterFrame_draws (f : FrameState) (s : State) : (enterFrame f s).draws = s.draws := rfl

/-! ### `stampFrame` -/

@[simp] theorem stampFrame_cb (s : State) : (stampFrame s).cb = s.cb := rfl
@[simp] theorem stampFrame_tb (s : State) : (stampFrame s).tb = s.tb := rfl
@[simp] theorem stampFrame_fs (s : State) : (stampFrame s).fs = s.fs := rfl
@[simp] theorem stampFrame_fc (s : State) : (stampFrame s).fc = s.fc := rfl
@[simp] theorem stampFrame_tmr (s : State) : (stampFrame s).tmr = s.tmr := rfl
@[simp] theorem stampFrame_lm (s : State) : (stampFrame s).lm = s.lm := rfl
@[simp] theorem stampFrame_tx (s : State) : (stampFrame s).tx = s.tx := rfl
@[simp] theorem stampFrame_fst (s : State) : (stampFrame s).fst = s.now := rfl
@[simp] theorem stampFrame_now (s : State) : (stampFrame s).now = s.now := rfl
@[simp] theorem stampFrame_wire (s : State) : (stampFrame s).wire = s.wire := rfl
@[simp] theorem stampFrame_flog (s : State) : (stampFrame s).flog = s.flog := rfl
@[simp] theorem stampFrame_response (s : State) : (stampFrame s).response = s.response := rfl
@[simp] theorem stampFrame_trace (s : State) : (stampFrame s).trace = s.trace := rfl
@[simp] theorem stampFrame_draws (s : State) : (stampFrame s).draws = s.draws := rfl

/-! ### `armTimer` -/

@[simp] theorem armTimer_cb (d : Nat) (s : State) : (armTimer d s).cb = s.cb := rfl
@[simp] theorem armTimer_tb (d : Nat) (s : State) : (armTimer d s).tb = s.tb := rfl
@[simp] theorem armTimer_fs (d : Nat) (s : State) : (armTimer d s).fs = s.fs := rfl
@[simp] theorem armTimer_fc (d : Nat) (s : State) : (armTimer d s).fc = s.fc := rfl
@[simp] theorem armTimer_tmr (d : Nat) (s : State) : (armTimer d s).tmr = .armed (s.now + d) := rfl
@[simp] theorem armTimer_lm (d : Nat) (s : State) : (armTimer d s).lm = s.lm := rfl
@[simp] theorem armTimer_tx (d : Nat) (s : State) : (armTimer d s).tx = s.tx := rfl
@[simp] theorem armTimer_fst (d : Nat) (s : State) : (armTimer d s).fst = s.fst := rfl
@[simp] theorem armTimer_now (d : Nat) (s : State) : (armTimer d s).now = s.now := rfl
@[simp] theorem armTimer_wire (d : Nat) (s : State) : (armTimer d s).wire = s.wire := rfl
@[simp] theorem armTimer_flog (d : Nat) (s : State) : (armTimer d s).flog = s.flog := rfl
@[simp] theorem armTimer_response (d : Nat) (s : State) : (armTimer d s).response = s.response := rfl
@[simp] theorem armTimer_trace (d : Nat) (s : State) : (armTimer d s).trace = s.trace := rfl
@[simp] theorem armTimer_draws (d : Nat) (s : State) : (armTimer d s).draws = s.draws := rfl

/-! ### `disarmTimer` -/

@[simp] theorem disarmTimer_cb (s : State) : (disarmTimer s).cb = s.cb := rfl
@[simp] theorem disarmTimer_tb (s : State) : (disarmTimer s).tb = s.tb := rfl
@[simp] theorem disarmTimer_fs (s : State) : (disarmTimer s).fs = s.fs := rfl
@[simp] theorem disarmTimer_fc (s : State) : (disarmTimer s).fc = s.fc := rfl
@[simp] theorem disarmTimer_tmr (s : State) : (disarmTimer s).tmr = .disarmed := rfl
@[simp] theorem disarmTimer_lm (s : State) : (disarmTimer s).lm = s.lm := rfl
@[simp] theorem disarmTimer_tx (s : State) : (disarmTimer s).tx = s.tx := rfl
@[simp] theorem disarmTimer_fst (s : State) : (disarmTimer s).fst = s.fst := rfl
@[simp] theorem disarmTimer_now (s : State) : (disarmTimer s).now = s.now := rfl
@[simp] theorem disarmTimer_wire (s : State) : (disarmTimer s).wire = s.wire := rfl
@[simp] theorem disarmTimer_flog (s : State) : (disarmTimer s).flog = s.flog := rfl
@[simp] theorem disarmTimer_response (s : State) : (disarmTimer s).response = s.response := rfl
@[simp] theorem disarmTimer_trace (s : State) : (disarmTimer s).trace = s.trace := rfl
@[simp] theorem disarmTimer_draws (s : State) : (disarmTimer s).draws = s.draws := rfl

/-! ### `driveLow` -/

@[simp] theorem driveLow_cb (s : State) : (driveLow s).cb = s.cb := rfl
@[simp] theorem driveLow_tb (s : State) : (driveLow s).tb = s.tb := rfl
@[simp] theorem driveLow_fs (s : State) : (driveLow s).fs = s.fs := rfl
@[simp] theorem driveLow_fc (s : State) : (driveLow s).fc = s.fc := rfl
@[simp] theorem driveLow_tmr (s : State) : (driveLow s).tmr = s.tmr := rfl
@[simp] theorem driveLow_lm (s : State) : (driveLow s).lm = .rawLow := rfl
@[simp] theorem driveLow_tx (s : State) : (driveLow s).tx = s.tx := rfl
@[simp] theorem driveLow_fst (s : State) : (driveLow s).fst = s.fst := rfl
@[simp] theorem driveLow_now (s : State) : (driveLow s).now = s.now := rfl
@[simp] theorem driveLow_wire (s : State) : (driveLow s).wire = s.wire ++ [.low s.now] := rfl
@[simp] theorem driveLow_flog (s : State) : (driveLow s).flog = s.flog := rfl
@[simp] theorem driveLow_response (s : State) : (driveLow s).response = s.response := rfl
@[simp] theorem driveLow_trace (s : State) : (driveLow s).trace = s.trace := rfl
@[simp] theorem driveLow_draws (s : State) : (driveLow s).draws = s.draws := rfl

/-! ### `driveHigh` -/

@[simp] theorem driveHigh_cb (s : State) : (driveHigh s).cb = s.cb := rfl
@[simp] theorem driveHigh_tb (s : State) : (driveHigh s).tb = s.tb := rfl
@[simp] theorem driveHigh_fs (s : State) : (driveHigh s).fs = s.fs := rfl
@[simp] theorem driveHigh_fc (s : State) : (driveHigh s).fc = s.fc := rfl
@[simp] theorem driveHigh_tmr (s : State) : (driveHigh s).tmr = s.tmr := rfl
@[simp] theorem driveHigh_lm (s : State) : (driveHigh s).lm = .rawHigh := rfl
@[simp] theorem driveHigh_tx (s : State) : (driveHigh s).tx = s.tx := rfl
@[simp] theorem driveHigh_fst (s : State) : (driveHigh s).fst = s.fst := rfl
@[simp] theorem driveHigh_now (s : State) : (driveHigh s).now = s.now := rfl
@[simp] theorem driveHigh_wire (s : State) : (driveHigh s).wire = s.wire ++ [.high s.now] := rfl
@[simp] theorem driveHigh_flog (s : State) : (driveHigh s).flog = s.flog := rfl
@[simp] theorem driveHigh_response (s : State) : (driveHigh s).response = s.response := rfl
@[simp] theorem driveHigh_trace (s : State) : (driveHigh s).trace = s.trace := rfl
@[simp] theorem driveHigh_draws (s : State) : (driveHigh s).draws = s.draws := rfl

/-! ### `selectUart` -/

@[simp] theorem selectUart_cb (s : State) : (selectUart s).cb = s.cb := rfl
@[simp] theorem selectUart_tb (s : State) : (selectUart s).tb = s.tb := rfl
@[simp] theorem selectUart_fs (s : State) : (selectUart s).fs = s.fs := rfl
@[simp] theorem selectUart_fc (s : State) : (selectUart s).fc = s.fc := rfl
@[simp] theorem selectUart_tmr (s : State) : (selectUart s).tmr = s.tmr := rfl
@[simp] theorem selectUart_lm (s : State) : (selectUart s).lm = .uart := rfl
@[simp] theorem selectUart_tx (s : State) : (selectUart s).tx = s.tx := rfl
@[simp] theorem selectUart_fst (s : State) : (selectUart s).fst = s.fst := rfl
@[simp] theorem selectUart_now (s : State) : (selectUart s).now = s.now := rfl
@[simp] theorem selectUart_wire (s : State) : (selectUart s).wire = s.wire ++ [.uartIdle s.now] := rfl
@[simp] theorem selectUart_flog (s : State) : (selectUart s).flog = s.flog := rfl
@[simp] theorem selectUart_response (s : State) : (selectUart s).response = s.response := rfl
@[simp] theorem selectUart_trace (s : State) : (selectUart s).trace = s.trace := rfl
@[simp] theorem selectUart_draws (s : State) : (selectUart s).draws = s.draws := rfl

/-! ### `startTransmit` -/

@[simp] theorem startTransmit_cb (s : State) : (startTransmit s).cb = s.cb := rfl
@[simp] theorem startTransmit_tb (s : State) : (startTransmit s).tb = s.tb := rfl
@[simp] theorem startTransmit_fs (s : State) : (startTransmit s).fs = s.fs := rfl
@[simp] theorem startTransmit_fc (s : State) : (startTransmit s).fc = s.fc := rfl
@[simp] theorem startTransmit_tmr (s : State) : (startTransmit s).tmr = s.tmr := rfl
@[simp] theorem startTransmit_lm (s : State) : (startTransmit s).lm = s.lm := rfl
@[simp] theorem startTransmit_tx (s : State) : (startTransmit s).tx = .busy 0 s.now := rfl
@[simp] theorem startTransmit_fst (s : State) : (startTransmit s).fst = s.fst := rfl
@[simp] theorem startTransmit_now (s : State) : (startTransmit s).now = s.now := rfl
@[simp] theorem startTransmit_wire (s : State) : (startTransmit s).wire = s.wire := rfl
@[simp] theorem startTransmit_flog (s : State) : (startTransmit s).flog = s.flog := rfl
@[simp] theorem startTransmit_response (s : State) : (startTransmit s).response = s.response := rfl
@[simp] theorem startTransmit_trace (s : State) : (startTransmit s).trace = s.trace := rfl
@[simp] theorem startTransmit_draws (s : State) : (startTransmit s).draws = s.draws := rfl

/-! ### `idleTransmitter` -/

@[simp] theorem idleTransmitter_cb (s : State) : (idleTransmitter s).cb = s.cb := rfl
@[simp] theorem idleTransmitter_tb (s : State) : (idleTransmitter s).tb = s.tb := rfl
@[simp] theorem idleTransmitter_fs (s : State) : (idleTransmitter s).fs = s.fs := rfl
@[simp] theorem idleTransmitter_fc (s : State) : (idleTransmitter s).fc = s.fc := rfl
@[simp] theorem idleTransmitter_tmr (s : State) : (idleTransmitter s).tmr = s.tmr := rfl
@[simp] theorem idleTransmitter_lm (s : State) : (idleTransmitter s).lm = s.lm := rfl
@[simp] theorem idleTransmitter_tx (s : State) : (idleTransmitter s).tx = .idle := rfl
@[simp] theorem idleTransmitter_fst (s : State) : (idleTransmitter s).fst = s.fst := rfl
@[simp] theorem idleTransmitter_now (s : State) : (idleTransmitter s).now = s.now := rfl
@[simp] theorem idleTransmitter_wire (s : State) : (idleTransmitter s).wire = s.wire := rfl
@[simp] theorem idleTransmitter_flog (s : State) : (idleTransmitter s).flog = s.flog := rfl
@[simp] theorem idleTransmitter_response (s : State) : (idleTransmitter s).response = s.response := rfl
@[simp] theorem idleTransmitter_trace (s : State) : (idleTransmitter s).trace = s.trace := rfl
@[simp] theorem idleTransmitter_draws (s : State) : (idleTransmitter s).draws = s.draws := rfl

/-! ### `countFault` -/

@[simp] theorem countFault_cb (s : State) : (countFault s).cb = s.cb := rfl
@[simp] theorem countFault_tb (s : State) : (countFault s).tb = s.tb := rfl
@[simp] theorem countFault_fs (s : State) : (countFault s).fs = s.fs := rfl
@[simp] theorem countFault_fc (s : State) : (countFault s).fc = s.fc + 1 := rfl
@[simp] theorem countFault_tmr (s : State) : (countFault s).tmr = s.tmr := rfl
@[simp] theorem countFault_lm (s : State) : (countFault s).lm = s.lm := rfl
@[simp] theorem countFault_tx (s : State) : (countFault s).tx = s.tx := rfl
@[simp] theorem countFault_fst (s : State) : (countFault s).fst = s.fst := rfl
@[simp] theorem countFault_now (s : State) : (countFault s).now = s.now := rfl
@[simp] theorem countFault_wire (s : State) : (countFault s).wire = s.wire := rfl
@[simp] theorem countFault_flog (s : State) : (countFault s).flog = s.flog := rfl
@[simp] theorem countFault_response (s : State) : (countFault s).response = s.response := rfl
@[simp] theorem countFault_trace (s : State) : (countFault s).trace = s.trace := rfl
@[simp] theorem countFault_draws (s : State) : (countFault s).draws = s.draws := rfl

/-! ### `passTime` -/

@[simp] theorem passTime_cb (n : Nat) (s : State) : (passTime n s).cb = s.cb := rfl
@[simp] theorem passTime_tb (n : Nat) (s : State) : (passTime n s).tb = s.tb := rfl
@[simp] theorem passTime_fs (n : Nat) (s : State) : (passTime n s).fs = s.fs := rfl
@[simp] theorem passTime_fc (n : Nat) (s : State) : (passTime n s).fc = s.fc := rfl
@[simp] theorem passTime_tmr (n : Nat) (s : State) : (passTime n s).tmr = s.tmr := rfl
@[simp] theorem passTime_lm (n : Nat) (s : State) : (passTime n s).lm = s.lm := rfl
@[simp] theorem passTime_tx (n : Nat) (s : State) : (passTime n s).tx = s.tx := rfl
@[simp] theorem passTime_fst (n : Nat) (s : State) : (passTime n s).fst = s.fst := rfl
@[simp] theorem passTime_now (n : Nat) (s : State) : (passTime n s).now = s.now + n := rfl
@[simp] theorem passTime_wire (n : Nat) (s : State) : (passTime n s).wire = s.wire := rfl
@[simp] theorem passTime_flog (n : Nat) (s : State) : (passTime n s).flog = s.flog := rfl
@[simp] theorem passTime_response (n : Nat) (s : State) : (passTime n s).response = s.response := rfl
@[simp] theorem passTime_trace (n : Nat) (s : State) : (passTime n s).trace = s.trace := rfl
@[simp] theorem passTime_draws (n : Nat) (s : State) : (passTime n s).draws = s.draws := rfl

/-! ### `takeMove` -/

@[simp] theorem takeMove_cb (rest : List Move) (s : State) : (takeMove rest s).cb = s.cb := rfl
@[simp] theorem takeMove_tb (rest : List Move) (s : State) : (takeMove rest s).tb = s.tb := rfl
@[simp] theorem takeMove_fs (rest : List Move) (s : State) : (takeMove rest s).fs = s.fs := rfl
@[simp] theorem takeMove_fc (rest : List Move) (s : State) : (takeMove rest s).fc = s.fc := rfl
@[simp] theorem takeMove_tmr (rest : List Move) (s : State) : (takeMove rest s).tmr = s.tmr := rfl
@[simp] theorem takeMove_lm (rest : List Move) (s : State) : (takeMove rest s).lm = s.lm := rfl
@[simp] theorem takeMove_tx (rest : List Move) (s : State) : (takeMove rest s).tx = s.tx := rfl
@[simp] theorem takeMove_fst (rest : List Move) (s : State) : (takeMove rest s).fst = s.fst := rfl
@[simp] theorem takeMove_now (rest : List Move) (s : State) : (takeMove rest s).now = s.now := rfl
@[simp] theorem takeMove_wire (rest : List Move) (s : State) : (takeMove rest s).wire = s.wire := rfl
@[simp] theorem takeMove_flog (rest : List Move) (s : State) : (takeMove rest s).flog = s.flog := rfl
@[simp] theorem takeMove_response (rest : List Move) (s : State) : (takeMove rest s).response = none := rfl
@[simp] theorem takeMove_trace (rest : List Move) (s : State) : (takeMove rest s).trace = rest := rfl
@[simp] theorem takeMove_draws (rest : List Move) (s : State) : (takeMove rest s).draws = s.draws := rfl

/-! ### `drawMove` -/

@[simp] theorem drawMove_cb (s : State) : (drawMove s).cb = s.cb := rfl
@[simp] theorem drawMove_tb (s : State) : (drawMove s).tb = s.tb := rfl
@[simp] theorem drawMove_fs (s : State) : (drawMove s).fs = s.fs := rfl
@[simp] theorem drawMove_fc (s : State) : (drawMove s).fc = s.fc := rfl
@[simp] theorem drawMove_tmr (s : State) : (drawMove s).tmr = s.tmr := rfl
@[simp] theorem drawMove_lm (s : State) : (drawMove s).lm = s.lm := rfl
@[simp] theorem drawMove_tx (s : State) : (drawMove s).tx = s.tx := rfl
@[simp] theorem drawMove_fst (s : State) : (drawMove s).fst = s.fst := rfl
@[simp] theorem drawMove_now (s : State) : (drawMove s).now = s.now := rfl
@[simp] theorem drawMove_wire (s : State) : (drawMove s).wire = s.wire := rfl
@[simp] theorem drawMove_flog (s : State) : (drawMove s).flog = s.flog := rfl
@[simp] theorem drawMove_response (s : State) : (drawMove s).response = none := rfl
@[simp] theorem drawMove_trace (s : State) : (drawMove s).trace = s.trace := rfl
@[simp] theorem drawMove_draws (s : State) : (drawMove s).draws = s.draws + 1 := rfl

/-! ### `presentWord` -/

@[simp] theorem presentWord_cb (w : RequestWord) (s : State) : (presentWord w s).cb = s.cb := rfl
@[simp] theorem presentWord_tb (w : RequestWord) (s : State) : (presentWord w s).tb = s.tb := rfl
@[simp] theorem presentWord_fs (w : RequestWord) (s : State) : (presentWord w s).fs = s.fs := rfl
@[simp] theorem presentWord_fc (w : RequestWord) (s : State) : (presentWord w s).fc = s.fc := rfl
@[simp] theorem presentWord_tmr (w : RequestWord) (s : State) : (presentWord w s).tmr = s.tmr := rfl
@[simp] theorem presentWord_lm (w : RequestWord) (s : State) : (presentWord w s).lm = s.lm := rfl
@[simp] theorem presentWord_tx (w : RequestWord) (s : State) : (presentWord w s).tx = s.tx := rfl
@[simp] theorem presentWord_fst (w : RequestWord) (s : State) : (presentWord w s).fst = s.fst := rfl
@[simp] theorem presentWord_now (w : RequestWord) (s : State) : (presentWord w s).now = s.now := rfl
@[simp] theorem presentWord_wire (w : RequestWord) (s : State) : (presentWord w s).wire = s.wire := rfl
@[simp] theorem presentWord_flog (w : RequestWord) (s : State) : (presentWord w s).flog = s.flog := rfl
@[simp] theorem presentWord_response (w : RequestWord) (s : State) : (presentWord w s).response = s.response := rfl
@[simp] theorem presentWord_trace (w : RequestWord) (s : State) : (presentWord w s).trace = .request (homeContext w) w :: s.trace := rfl
@[simp] theorem presentWord_draws (w : RequestWord) (s : State) : (presentWord w s).draws = s.draws := rfl

/-! ### `emitAbort` -/

@[simp] theorem emitAbort_cb (s : State) : (emitAbort s).cb = s.cb := by
  unfold emitAbort; split <;> rfl
@[simp] theorem emitAbort_tb (s : State) : (emitAbort s).tb = s.tb := by
  unfold emitAbort; split <;> rfl
@[simp] theorem emitAbort_fs (s : State) : (emitAbort s).fs = s.fs := by
  unfold emitAbort; split <;> rfl
@[simp] theorem emitAbort_fc (s : State) : (emitAbort s).fc = s.fc := by
  unfold emitAbort; split <;> rfl
@[simp] theorem emitAbort_tmr (s : State) : (emitAbort s).tmr = s.tmr := by
  unfold emitAbort; split <;> rfl
@[simp] theorem emitAbort_lm (s : State) : (emitAbort s).lm = s.lm := by
  unfold emitAbort; split <;> rfl
@[simp] theorem emitAbort_tx (s : State) : (emitAbort s).tx = s.tx := by
  unfold emitAbort; split <;> rfl
@[simp] theorem emitAbort_fst (s : State) : (emitAbort s).fst = s.fst := by
  unfold emitAbort; split <;> rfl
@[simp] theorem emitAbort_now (s : State) : (emitAbort s).now = s.now := by
  unfold emitAbort; split <;> rfl
theorem emitAbort_wire (s : State) :
    (emitAbort s).wire = if busy s = true then s.wire ++ [.abort s.now] else s.wire := by
  unfold emitAbort; split <;> rfl
@[simp] theorem emitAbort_flog (s : State) : (emitAbort s).flog = s.flog := by
  unfold emitAbort; split <;> rfl
@[simp] theorem emitAbort_response (s : State) : (emitAbort s).response = s.response := by
  unfold emitAbort; split <;> rfl
@[simp] theorem emitAbort_trace (s : State) : (emitAbort s).trace = s.trace := by
  unfold emitAbort; split <;> rfl
@[simp] theorem emitAbort_draws (s : State) : (emitAbort s).draws = s.draws := by
  unfold emitAbort; split <;> rfl

end Sys2Proof.Machine
end

