-- ==== Sys2Proof/Laws/Ops.lean ====
section
/-! SUPPORT. What each shared operation does, said once: the compound updates as one record update, and for each
operation that can stop the cases in which it answers a next state. -/

namespace Sys2Proof.Machine

/-! ### The parameters' values -/

@[simp] theorem nCh_eq : Config.nCh = 512 := rfl
@[simp] theorem tbLen_eq : Config.tbLen = 513 := rfl
@[simp] theorem addrMin_eq : Config.addrMin = 1 := rfl
@[simp] theorem addrMax_eq : Config.addrMax = 512 := rfl
@[simp] theorem tSlotUs_eq : Config.tSlotUs = 44 := rfl
@[simp] theorem tBitUs_eq : Config.tBitUs = 4 := rfl
@[simp] theorem tDataMinUs_eq : Config.tDataMinUs = 22572 := rfl

theorem tBreakUs_ge (p : Params) : 88 ≤ p.tBreakUs := by simp [Params.tBreakUs, Config.tBreakMinUs]

theorem tMabUs_ge (p : Params) : 8 ≤ p.tMabUs := by simp [Params.tMabUs, Config.tMabMinUs]

/-! ### Operands -/

theorem validAddress_iff {a : Int} : validAddress a = true ↔ 1 ≤ a ∧ a ≤ 512 := by
  rw [validAddress, Bool.and_eq_true, decide_eq_true_iff, decide_eq_true_iff]
  simp

/-- A valid channel address as the index of its byte. -/
theorem toNat_of_valid {a : Int} (h : validAddress a = true) : 1 ≤ a.toNat ∧ a.toNat ≤ 512 := by
  have := validAddress_iff.mp h
  omega

theorem clamp8_toNat (v : Int) : ((clamp8 v).toNat : Int) = max 0 (min 255 v) := by
  simp only [clamp8, Config.valMin, Config.valMax, BitVec.toNat_ofInt]
  omega

theorem average_toNat (x y z : Byte) : (average x y z).toNat = (x.toNat + y.toNat + z.toNat) / 3 := by
  have hx := x.isLt
  have hy := y.isLt
  have hz := z.isLt
  simp only [average, BitVec.toNat_ofNat]
  omega

theorem exceeds_iff {d : Nat} {bound : Option Nat} : exceeds d bound = true ↔ ∃ t, bound = some t ∧ t < d := by
  cases bound <;> simp [exceeds]

/-! ### Producer operations -/

theorem atChannel_valid {a : Int} (h : validAddress a = true) (s : State) (k : Nat → State) :
    atChannel a s k = k a.toNat := by simp [atChannel, h]

theorem atChannel_invalid {a : Int} (h : validAddress a = false) (s : State) (k : Nat → State) :
    atChannel a s k = respond .invalidAddress s := by simp [atChannel, h]

/-- The snapshot holds the start code at index 0 and channel `i` at index `i`. -/
theorem readTb_takeSnapshot (s : State) (i : Nat) :
    readTb (takeSnapshot s) i = if 1 ≤ i ∧ i ≤ 512 then readCb s i else 0#8 := by
  simp [readTb, readCb, Memory.read_restrict]

theorem readCb_writeCb (a : Nat) (v : Byte) (s : State) (k : Nat) :
    readCb (writeCb a v s) k = if k = a then v else readCb s k := by
  simp [readCb, Memory.read_write]

theorem readCb_fillCb (v : Byte) (s : State) (k : Nat) :
    readCb (fillCb v s) k = if 1 ≤ k ∧ k ≤ 512 then v else 0#8 := by
  have : (1 ≤ k ∧ k < 1 + 512) ↔ (1 ≤ k ∧ k ≤ 512) := by omega
  simp [readCb, Memory.read_fill, this]

/-! ### Compound updates as one record -/

theorem abortTransmit_eq (s : State) : abortTransmit s =
    { s with tx := .idle, wire := if busy s = true then s.wire ++ [.abort s.now] else s.wire } := by
  unfold abortTransmit emitAbort; split <;> rfl

/-- `RECOVER` changes `FLOG`, `TMR`, `TX`, `FS`, `FC`, and logs the abort of a busy transmitter; nothing else. -/
theorem recover_eq (c : FaultCause) (s : State) : recover c s =
    { s with
      flog := s.flog ++ [(c, s.fs)], tmr := .disarmed, tx := .idle, fs := .idle, fc := s.fc + 1
      wire := if busy s = true then s.wire ++ [.abort s.now] else s.wire } := by
  unfold recover abortTransmit emitAbort
  rw [busy_congr (s := disarmTimer (logFault c s)) (t := s) rfl]
  split <;> rfl

theorem resetBlock_eq (s : State) : resetBlock s =
    { s with
      cb := [], tb := drawnBuffer s.draws, fs := .idle, fc := 0, tmr := .disarmed, tx := .idle, lm := .uart
      fst := Config.freeTime s.draws, flog := [], draws := s.draws + 1
      wire := (if busy s = true then s.wire ++ [.abort s.now] else s.wire) ++ [.uartIdle s.now] } := by
  cases h : busy s <;> simp [resetBlock, emitAbort, h, resetRegisters, selectUart, emit]

theorem startFrame_eq (p : Params) (s : State) : startFrame p s =
    { s with
      tb := Memory.restrict 1 512 s.cb, lm := .rawLow, wire := s.wire ++ [.low s.now]
      tmr := .armed (s.now + p.tBreakUs), fst := s.now, fs := .brk } := rfl

theorem startSlot_eq (i : Fin 514) (h : i.val ≤ 512) (s : State) : startSlot i h s =
    { s with
      tx := .busy (nextIndex i h) (s.now + 44)
      wire := s.wire ++ [.slot s.now i.val (s.tb.read i.val)] } := rfl

theorem finishTransmit_eq (s : State) : finishTransmit s =
    { s with tx := .idle, wire := s.wire ++ [.done s.now] } := rfl

/-! ### Compound updates, field by field -/

@[simp] theorem abortTransmit_cb (s : State) :
    (abortTransmit s).cb = s.cb := by rw [abortTransmit_eq]
@[simp] theorem abortTransmit_tb (s : State) :
    (abortTransmit s).tb = s.tb := by rw [abortTransmit_eq]
@[simp] theorem abortTransmit_fs (s : State) :
    (abortTransmit s).fs = s.fs := by rw [abortTransmit_eq]
@[simp] theorem abortTransmit_fc (s : State) :
    (abortTransmit s).fc = s.fc := by rw [abortTransmit_eq]
@[simp] theorem abortTransmit_tmr (s : State) :
    (abortTransmit s).tmr = s.tmr := by rw [abortTransmit_eq]
@[simp] theorem abortTransmit_lm (s : State) :
    (abortTransmit s).lm = s.lm := by rw [abortTransmit_eq]
@[simp] theorem abortTransmit_tx (s : State) :
    (abortTransmit s).tx = .idle := by rw [abortTransmit_eq]
@[simp] theorem abortTransmit_fst (s : State) :
    (abortTransmit s).fst = s.fst := by rw [abortTransmit_eq]
@[simp] theorem abortTransmit_now (s : State) :
    (abortTransmit s).now = s.now := by rw [abortTransmit_eq]
@[simp] theorem abortTransmit_wire (s : State) :
    (abortTransmit s).wire = if busy s = true then s.wire ++ [.abort s.now] else s.wire := by rw [abortTransmit_eq]
@[simp] theorem abortTransmit_flog (s : State) :
    (abortTransmit s).flog = s.flog := by rw [abortTransmit_eq]
@[simp] theorem abortTransmit_response (s : State) :
    (abortTransmit s).response = s.response := by rw [abortTransmit_eq]
@[simp] theorem abortTransmit_trace (s : State) :
    (abortTransmit s).trace = s.trace := by rw [abortTransmit_eq]
@[simp] theorem abortTransmit_draws (s : State) :
    (abortTransmit s).draws = s.draws := by rw [abortTransmit_eq]

@[simp] theorem recover_cb (c : FaultCause) (s : State) :
    (recover c s).cb = s.cb := by rw [recover_eq]
@[simp] theorem recover_tb (c : FaultCause) (s : State) :
    (recover c s).tb = s.tb := by rw [recover_eq]
@[simp] theorem recover_fs (c : FaultCause) (s : State) :
    (recover c s).fs = .idle := by rw [recover_eq]
@[simp] theorem recover_fc (c : FaultCause) (s : State) :
    (recover c s).fc = s.fc + 1 := by rw [recover_eq]
@[simp] theorem recover_tmr (c : FaultCause) (s : State) :
    (recover c s).tmr = .disarmed := by rw [recover_eq]
@[simp] theorem recover_lm (c : FaultCause) (s : State) :
    (recover c s).lm = s.lm := by rw [recover_eq]
@[simp] theorem recover_tx (c : FaultCause) (s : State) :
    (recover c s).tx = .idle := by rw [recover_eq]
@[simp] theorem recover_fst (c : FaultCause) (s : State) :
    (recover c s).fst = s.fst := by rw [recover_eq]
@[simp] theorem recover_now (c : FaultCause) (s : State) :
    (recover c s).now = s.now := by rw [recover_eq]
@[simp] theorem recover_wire (c : FaultCause) (s : State) :
    (recover c s).wire = if busy s = true then s.wire ++ [.abort s.now] else s.wire := by rw [recover_eq]
@[simp] theorem recover_flog (c : FaultCause) (s : State) :
    (recover c s).flog = s.flog ++ [(c, s.fs)] := by rw [recover_eq]
@[simp] theorem recover_response (c : FaultCause) (s : State) :
    (recover c s).response = s.response := by rw [recover_eq]
@[simp] theorem recover_trace (c : FaultCause) (s : State) :
    (recover c s).trace = s.trace := by rw [recover_eq]
@[simp] theorem recover_draws (c : FaultCause) (s : State) :
    (recover c s).draws = s.draws := by rw [recover_eq]

@[simp] theorem resetBlock_cb (s : State) :
    (resetBlock s).cb = [] := by rw [resetBlock_eq]
@[simp] theorem resetBlock_tb (s : State) :
    (resetBlock s).tb = drawnBuffer s.draws := by rw [resetBlock_eq]
@[simp] theorem resetBlock_fs (s : State) :
    (resetBlock s).fs = .idle := by rw [resetBlock_eq]
@[simp] theorem resetBlock_fc (s : State) :
    (resetBlock s).fc = 0 := by rw [resetBlock_eq]
@[simp] theorem resetBlock_tmr (s : State) :
    (resetBlock s).tmr = .disarmed := by rw [resetBlock_eq]
@[simp] theorem resetBlock_lm (s : State) :
    (resetBlock s).lm = .uart := by rw [resetBlock_eq]
@[simp] theorem resetBlock_tx (s : State) :
    (resetBlock s).tx = .idle := by rw [resetBlock_eq]
@[simp] theorem resetBlock_fst (s : State) :
    (resetBlock s).fst = Config.freeTime s.draws := by rw [resetBlock_eq]
@[simp] theorem resetBlock_now (s : State) :
    (resetBlock s).now = s.now := by rw [resetBlock_eq]
@[simp] theorem resetBlock_wire (s : State) :
    (resetBlock s).wire = (if busy s = true then s.wire ++ [.abort s.now] else s.wire) ++ [.uartIdle s.now] := by rw [resetBlock_eq]
@[simp] theorem resetBlock_flog (s : State) :
    (resetBlock s).flog = [] := by rw [resetBlock_eq]
@[simp] theorem resetBlock_response (s : State) :
    (resetBlock s).response = s.response := by rw [resetBlock_eq]
@[simp] theorem resetBlock_trace (s : State) :
    (resetBlock s).trace = s.trace := by rw [resetBlock_eq]
@[simp] theorem resetBlock_draws (s : State) :
    (resetBlock s).draws = s.draws + 1 := by rw [resetBlock_eq]

@[simp] theorem startFrame_cb (p : Params) (s : State) :
    (startFrame p s).cb = s.cb := rfl
@[simp] theorem startFrame_tb (p : Params) (s : State) :
    (startFrame p s).tb = Memory.restrict 1 512 s.cb := rfl
@[simp] theorem startFrame_fs (p : Params) (s : State) :
    (startFrame p s).fs = .brk := rfl
@[simp] theorem startFrame_fc (p : Params) (s : State) :
    (startFrame p s).fc = s.fc := rfl
@[simp] theorem startFrame_tmr (p : Params) (s : State) :
    (startFrame p s).tmr = .armed (s.now + p.tBreakUs) := rfl
@[simp] theorem startFrame_lm (p : Params) (s : State) :
    (startFrame p s).lm = .rawLow := rfl
@[simp] theorem startFrame_tx (p : Params) (s : State) :
    (startFrame p s).tx = s.tx := rfl
@[simp] theorem startFrame_fst (p : Params) (s : State) :
    (startFrame p s).fst = s.now := rfl
@[simp] theorem startFrame_now (p : Params) (s : State) :
    (startFrame p s).now = s.now := rfl
@[simp] theorem startFrame_wire (p : Params) (s : State) :
    (startFrame p s).wire = s.wire ++ [.low s.now] := rfl
@[simp] theorem startFrame_flog (p : Params) (s : State) :
    (startFrame p s).flog = s.flog := rfl
@[simp] theorem startFrame_response (p : Params) (s : State) :
    (startFrame p s).response = s.response := rfl
@[simp] theorem startFrame_trace (p : Params) (s : State) :
    (startFrame p s).trace = s.trace := rfl
@[simp] theorem startFrame_draws (p : Params) (s : State) :
    (startFrame p s).draws = s.draws := rfl

@[simp] theorem startSlot_cb (i : Fin 514) (h : i.val ≤ 512) (s : State) :
    (startSlot i h s).cb = s.cb := rfl
@[simp] theorem startSlot_tb (i : Fin 514) (h : i.val ≤ 512) (s : State) :
    (startSlot i h s).tb = s.tb := rfl
@[simp] theorem startSlot_fs (i : Fin 514) (h : i.val ≤ 512) (s : State) :
    (startSlot i h s).fs = s.fs := rfl
@[simp] theorem startSlot_fc (i : Fin 514) (h : i.val ≤ 512) (s : State) :
    (startSlot i h s).fc = s.fc := rfl
@[simp] theorem startSlot_tmr (i : Fin 514) (h : i.val ≤ 512) (s : State) :
    (startSlot i h s).tmr = s.tmr := rfl
@[simp] theorem startSlot_lm (i : Fin 514) (h : i.val ≤ 512) (s : State) :
    (startSlot i h s).lm = s.lm := rfl
@[simp] theorem startSlot_tx (i : Fin 514) (h : i.val ≤ 512) (s : State) :
    (startSlot i h s).tx = .busy (nextIndex i h) (s.now + 44) := rfl
@[simp] theorem startSlot_fst (i : Fin 514) (h : i.val ≤ 512) (s : State) :
    (startSlot i h s).fst = s.fst := rfl
@[simp] theorem startSlot_now (i : Fin 514) (h : i.val ≤ 512) (s : State) :
    (startSlot i h s).now = s.now := rfl
@[simp] theorem startSlot_wire (i : Fin 514) (h : i.val ≤ 512) (s : State) :
    (startSlot i h s).wire = s.wire ++ [.slot s.now i.val (s.tb.read i.val)] := rfl
@[simp] theorem startSlot_flog (i : Fin 514) (h : i.val ≤ 512) (s : State) :
    (startSlot i h s).flog = s.flog := rfl
@[simp] theorem startSlot_response (i : Fin 514) (h : i.val ≤ 512) (s : State) :
    (startSlot i h s).response = s.response := rfl
@[simp] theorem startSlot_trace (i : Fin 514) (h : i.val ≤ 512) (s : State) :
    (startSlot i h s).trace = s.trace := rfl
@[simp] theorem startSlot_draws (i : Fin 514) (h : i.val ≤ 512) (s : State) :
    (startSlot i h s).draws = s.draws := rfl

@[simp] theorem finishTransmit_cb (s : State) :
    (finishTransmit s).cb = s.cb := rfl
@[simp] theorem finishTransmit_tb (s : State) :
    (finishTransmit s).tb = s.tb := rfl
@[simp] theorem finishTransmit_fs (s : State) :
    (finishTransmit s).fs = s.fs := rfl
@[simp] theorem finishTransmit_fc (s : State) :
    (finishTransmit s).fc = s.fc := rfl
@[simp] theorem finishTransmit_tmr (s : State) :
    (finishTransmit s).tmr = s.tmr := rfl
@[simp] theorem finishTransmit_lm (s : State) :
    (finishTransmit s).lm = s.lm := rfl
@[simp] theorem finishTransmit_tx (s : State) :
    (finishTransmit s).tx = .idle := rfl
@[simp] theorem finishTransmit_fst (s : State) :
    (finishTransmit s).fst = s.fst := rfl
@[simp] theorem finishTransmit_now (s : State) :
    (finishTransmit s).now = s.now := rfl
@[simp] theorem finishTransmit_wire (s : State) :
    (finishTransmit s).wire = s.wire ++ [.done s.now] := rfl
@[simp] theorem finishTransmit_flog (s : State) :
    (finishTransmit s).flog = s.flog := rfl
@[simp] theorem finishTransmit_response (s : State) :
    (finishTransmit s).response = s.response := rfl
@[simp] theorem finishTransmit_trace (s : State) :
    (finishTransmit s).trace = s.trace := rfl
@[simp] theorem finishTransmit_draws (s : State) :
    (finishTransmit s).draws = s.draws := rfl

/-! ### Operations that can stop -/

theorem transmitBuffer_next {s t : State} : transmitBuffer s = .next t ↔ s.tx = .idle ∧ t = startTransmit s := by
  unfold transmitBuffer
  cases h : busy s
  · simp [busy_eq_false.mp h, eq_comm]
  · obtain ⟨i, tn, htx⟩ := busy_eq_true.mp h
    simp [htx]

/-- `TICK` either starts a frame, or recovers a stalled one, or does nothing. -/
theorem tickWith_cases (p : Params) (s : State) :
    (s.fs = .idle ∧ s.tx = .idle ∧ tickWith p s = startFrame p s) ∨
    (s.fs ≠ .idle ∧ stalled p s = true ∧ tickWith p s = recover .stalledFrame s) ∨
    tickWith p s = s := by
  unfold tickWith
  cases hb : busy s <;> cases hs : stalled p s <;> cases hf : s.fs <;> simp_all [busy_eq_false]

/-- `TIMER_EXPIRED` either ends the break, or ends the mark, or recovers. -/
theorem timerExpiredWith_next {p : Params} {s t : State} (h : timerExpiredWith p s = .next t) :
    (s.fs = .brk ∧ t = enterFrame .mark (armTimer p.tMabUs (selectUart (driveHigh s)))) ∨
    (s.fs = .mark ∧ s.tx = .idle ∧ t = enterFrame .data (startTransmit (disarmTimer s))) ∨
    ((s.fs = .idle ∨ s.fs = .data) ∧ t = recover .unexpectedSignal s) := by
  unfold timerExpiredWith at h
  cases hf : s.fs <;> simp only [hf, Host.Outcome.next.injEq] at h
  · simp [h]
  · simp [h]
  · cases ho : transmitBuffer (disarmTimer s) with
    | next u =>
      obtain ⟨htx, rfl⟩ := transmitBuffer_next.mp ho
      simp only [ho, onNext, Host.Outcome.next.injEq] at h
      exact .inr (.inl ⟨rfl, htx, h.symm⟩)
    | fault r => cases r
    | refused r => simp [ho, onNext] at h
  · simp [h]

/-- `TX_COMPLETE` either ends the frame or recovers. -/
theorem txCompleted_cases (s : State) :
    (s.fs = .data ∧ txCompleted s = enterFrame .idle s) ∨
    (s.fs ≠ .data ∧ txCompleted s = recover .unexpectedSignal s) := by
  unfold txCompleted
  cases hf : s.fs <;> simp

theorem expireEnabled_iff {s : State} : expireEnabled s = true ↔ ∃ d, s.tmr = .armed d ∧ d ≤ s.now := by
  unfold expireEnabled; split <;> simp_all

theorem expireWith_next {p : Params} {s t : State} (h : expireWith p s = .next t) :
    expireEnabled s = true ∧ timerExpiredWith p (disarmTimer s) = .next t := by
  unfold expireWith at h
  split at h
  · exact ⟨‹_›, h⟩
  · cases h

theorem advanceWith_next {p : Params} {n : Nat} {s t : State} (h : advanceWith p n s = .next t) :
    advanceEnabled p n s = true ∧ t = passTime n s := by
  unfold advanceWith at h
  split at h
  · exact ⟨‹_›, by injection h with h; exact h.symm⟩
  · cases h

theorem slotEnabled_iff {s : State} :
    slotEnabled s = true ↔ ∃ i tn, s.tx = .busy i tn ∧ i.val ≤ 512 ∧ tn ≤ s.now := by
  unfold slotEnabled; split <;> simp_all

theorem txSlot_next {s t : State} (h : txSlot s = .next t) :
    ∃ i tn, ∃ hi : i.val ≤ 512, s.tx = .busy i tn ∧ tn ≤ s.now ∧ t = startSlot i hi s := by
  unfold txSlot at h
  split at h
  · simp at h
  · rename_i i tn htx
    split at h
    · rename_i hi
      split at h
      · rename_i hn
        exact ⟨i, tn, hi, htx, hn, by injection h with h; exact h.symm⟩
      · simp at h
    · simp at h

theorem doneEnabled_iff {s : State} : doneEnabled s = true ↔ ∃ tn, s.tx = .busy 513 tn ∧ tn ≤ s.now := by
  unfold doneEnabled
  split
  · simp_all
  · rename_i i tn htx
    have : i.val = 513 ↔ i = 513 := by simp [Fin.ext_iff]
    simp [htx, this]

theorem txDone_next {s t : State} (h : txDone s = .next t) :
    doneEnabled s = true ∧ t = txCompleted (finishTransmit s) := by
  unfold txDone at h
  split at h
  · exact ⟨‹_›, by injection h with h; exact h.symm⟩
  · cases h

end Sys2Proof.Machine
end

