-- ==== Sys2Proof/Laws/Words.lean ====
section
/-! SUPPORT. The fields of an assembled request word, and the operands that survive their 16-bit fields. -/

namespace Sys2Proof

section Fields
variable (o : Byte) (a b c d : Half)

@[simp] theorem fieldOpc_assemble : fieldOpc (assemble o a b c d) = o := by
  apply BitVec.eq_of_getElem_eq
  intro i hi
  simp only [fieldOpc, assemble, BitVec.getElem_extractLsb', BitVec.getLsbD_append]
  have h1 : ¬ (64 + i < 16) := by omega
  have h2 : ¬ (64 + i - 16 < 16) := by omega
  have h3 : ¬ (64 + i - 16 - 16 < 16) := by omega
  have h4 : ¬ (64 + i - 16 - 16 - 16 < 16) := by omega
  have h5 : 64 + i - 16 - 16 - 16 - 16 = i := by omega
  simp [h1, h2, h3, h4, h5, BitVec.getLsbD_eq_getElem hi]

@[simp] theorem fieldA_assemble : fieldA (assemble o a b c d) = a := by
  apply BitVec.eq_of_getElem_eq
  intro i hi
  simp only [fieldA, assemble, BitVec.getElem_extractLsb', BitVec.getLsbD_append]
  have h1 : ¬ (48 + i < 16) := by omega
  have h2 : ¬ (48 + i - 16 < 16) := by omega
  have h3 : ¬ (48 + i - 16 - 16 < 16) := by omega
  have h4 : 48 + i - 16 - 16 - 16 = i := by omega
  simp [h1, h2, h3, h4, hi]

@[simp] theorem fieldV0_assemble : fieldV0 (assemble o a b c d) = b := by
  apply BitVec.eq_of_getElem_eq
  intro i hi
  simp only [fieldV0, assemble, BitVec.getElem_extractLsb', BitVec.getLsbD_append]
  have h1 : ¬ (32 + i < 16) := by omega
  have h2 : ¬ (32 + i - 16 < 16) := by omega
  have h3 : 32 + i - 16 - 16 = i := by omega
  simp [h1, h2, h3, hi]

@[simp] theorem fieldV1_assemble : fieldV1 (assemble o a b c d) = c := by
  apply BitVec.eq_of_getElem_eq
  intro i hi
  simp only [fieldV1, assemble, BitVec.getElem_extractLsb', BitVec.getLsbD_append]
  have h1 : ¬ (16 + i < 16) := by omega
  have h2 : 16 + i - 16 = i := by omega
  simp [h1, h2, hi]

@[simp] theorem fieldV2_assemble : fieldV2 (assemble o a b c d) = d := by
  apply BitVec.eq_of_getElem_eq
  intro i hi
  simp only [fieldV2, assemble, BitVec.getElem_extractLsb', BitVec.getLsbD_append]
  simp [hi]

end Fields

/-- A signed operand that fits its field survives it. -/
theorem sext16_half {x : Int} (h : fitsSigned x = true) : sext16 (half x) = x := by
  simp only [fitsSigned, Bool.and_eq_true, decide_eq_true_eq] at h
  simp only [sext16, half, BitVec.toInt_ofInt]
  rw [Int.bmod_def]
  omega

/-- A duration that fits its field survives it. -/
theorem zext16_ofNat {d : Nat} (h : fitsUnsigned d = true) : zext16 (BitVec.ofNat 16 d) = d := by
  simp only [fitsUnsigned, decide_eq_true_eq] at h
  simp only [zext16, BitVec.toNat_ofNat]
  omega

/-- A field read as a signed operand and written back is the field. -/
theorem half_sext16 (h : Half) : half (sext16 h) = h := by simp [half, sext16]

/-- A field read as a duration and written back is the field. -/
theorem ofNat_zext16 (h : Half) : BitVec.ofNat 16 (zext16 h) = h := by simp [zext16]

theorem fitsSigned_sext16 (h : Half) : fitsSigned (sext16 h) = true := by
  have h1 := BitVec.toInt_lt (x := h)
  have h2 := BitVec.le_toInt (x := h)
  rw [fitsSigned, sext16, Bool.and_eq_true, decide_eq_true_iff, decide_eq_true_iff]
  omega

theorem fitsUnsigned_zext16 (h : Half) : fitsUnsigned (zext16 h) = true := by
  have h1 := h.isLt
  rw [fitsUnsigned, zext16, decide_eq_true_iff]
  omega

/-- A word that decodes to an operation carries its code. -/
theorem fieldOpc_of_decode {w : RequestWord} {i : Instr} (h : decode w = .op i) : fieldOpc w = i.opcode := by
  apply BitVec.eq_of_toNat_eq
  unfold decode at h
  split at h <;> first | (injection h with h; subst h; assumption) | cases h

end Sys2Proof
end

