-- ==== Sys2Proof/Laws/PerInstr.lean ====
section
/-! SUPPORT. Facts about every operation as syntax, one lemma per constructor. Family `EncodeOpcode`: the canonical word
carries the operation's code in bits 71:64 (spec/30_encoding.md R81, R82). -/

namespace Sys2Proof.Laws.EncodeOpcode

/-- The word's `OPC` field is the operation's code. -/
def Statement (i : Instr) : Prop := fieldOpc (encode i) = i.opcode

theorem reset : Statement .reset := fieldOpc_assemble ..
theorem set (a v : Int) : Statement (.set a v) := fieldOpc_assemble ..
theorem get (a : Int) : Statement (.get a) := fieldOpc_assemble ..
theorem setAll (v : Int) : Statement (.setAll v) := fieldOpc_assemble ..
theorem blendOne (a r g b : Int) : Statement (.blendOne a r g b) := fieldOpc_assemble ..
theorem blendAll (r g b : Int) : Statement (.blendAll r g b) := fieldOpc_assemble ..
theorem tick : Statement .tick := fieldOpc_assemble ..
theorem timerExpired : Statement .timerExpired := fieldOpc_assemble ..
theorem txComplete : Statement .txComplete := fieldOpc_assemble ..
theorem arm (d : Nat) : Statement (.arm d) := fieldOpc_assemble ..
theorem disarm : Statement .disarm := fieldOpc_assemble ..
theorem setRawLow : Statement .setRawLow := fieldOpc_assemble ..
theorem setRawHigh : Statement .setRawHigh := fieldOpc_assemble ..
theorem setUart : Statement .setUart := fieldOpc_assemble ..
theorem transmit : Statement .transmit := fieldOpc_assemble ..
theorem abort : Statement .abort := fieldOpc_assemble ..

end Sys2Proof.Laws.EncodeOpcode
end

