-- ==== Sys2Proof/Laws/Safety.lean ====
section
/-! SUPPORT. The small laws of the terms the claims are stated in: which buffer operations keep a buffer in canonical
form and range, what an invariant depends on, and what appending an entry does to a chain of neighbours. -/

namespace Sys2Proof.Safety

open Sys2Proof.Machine

theorem bufferIn_nil (lo hi : Nat) : BufferIn lo hi [] := ⟨Memory.wf_nil, by simp⟩

theorem bufferIn_write {lo hi k : Nat} {m : Memory} (v : Byte) (h : BufferIn lo hi m) (hk : lo ≤ k ∧ k ≤ hi) :
    BufferIn lo hi (m.write k v) := ⟨Memory.wf_write k v h.1, Memory.within_write v h.2 hk⟩

theorem bufferIn_fill (v : Byte) : BufferIn 1 512 (Memory.fill 1 512 v) :=
  ⟨Memory.wf_fill 1 512 v, Memory.within_fill 1 512 v⟩

/-- The snapshot of a canonical Channel Buffer is a canonical Transmit Buffer. -/
theorem bufferIn_restrict {m : Memory} (h : m.wf) : BufferIn 0 512 (Memory.restrict 1 512 m) :=
  ⟨Memory.wf_restrict 1 512 h, fun c hc => ⟨Nat.zero_le _, (Memory.within_restrict 1 512 m c hc).2⟩⟩

theorem bufferIn_drawn (n : Nat) : BufferIn 0 512 (drawnBuffer n) :=
  ⟨Memory.wf_ofFn .., fun c hc => Memory.within_ofFn 513 _ c hc⟩

/-- Consistency depends on the two buffers, the phase, the timer, the line mode, the transmitter, the two fault records and
the trace; time, the wire log, the response and the draws are free. -/
theorem Consistent.of_same {s t : State} (h : Consistent s) (hcb : t.cb = s.cb) (htb : t.tb = s.tb) (hfs : t.fs = s.fs)
    (htmr : t.tmr = s.tmr) (hlm : t.lm = s.lm) (htx : t.tx = s.tx) (hfc : t.fc = s.fc) (hfl : t.flog = s.flog)
    (htr : ∀ m ∈ t.trace, m.internal = false) : Consistent t := by
  have hb : busy t = busy s := busy_congr htx
  obtain ⟨a1, a2, a3, a4, a5, a6, a7, a8, a9, a10, a11, -⟩ := h
  constructor
  · rw [hcb]; exact a1
  · rw [htb]; exact a2
  · rw [hfs, htmr]; exact a3
  · rw [hfs, htx]; exact a4
  · rw [hfs, htx]; exact a5
  · rw [hfs, htmr]; exact a6
  · rw [hb, hlm]; exact a7
  · rw [hfs, hlm]; exact a8
  · rw [hfs, hlm]; exact a9
  · rw [hfc, hfl]; exact a10
  · rw [hfs, hb, htb]; exact a11
  · exact htr

/-- Taking the move at the head of the trace keeps consistency. -/
theorem Consistent.takeMove {s : State} {m : Move} {rest : List Move} (h : Consistent s) (ht : s.trace = m :: rest) :
    Consistent (takeMove rest s) :=
  h.of_same rfl rfl rfl rfl rfl rfl rfl rfl fun x hx => h.agentsOnly x (by rw [ht]; exact List.mem_cons_of_mem _ hx)

/-- Drawing a free move keeps consistency. -/
theorem Consistent.drawMove {s : State} (h : Consistent s) : Consistent (drawMove s) :=
  h.of_same rfl rfl rfl rfl rfl rfl rfl rfl h.agentsOnly

theorem adjacent_cons {r : WireEntry → WireEntry → Prop} (a : WireEntry) (l : List WireEntry) :
    adjacent r (a :: l) ↔ (∀ b, l.head? = some b → r a b) ∧ adjacent r l := by
  cases l with
  | nil => simp [adjacent]
  | cons b l => simp [adjacent]

/-- Appending one entry adds one neighbourhood: that of the last entry and the new one. -/
theorem adjacent_append_one {r : WireEntry → WireEntry → Prop} (l : List WireEntry) (x : WireEntry) :
    adjacent r (l ++ [x]) ↔ adjacent r l ∧ ∀ y, l.getLast? = some y → r y x := by
  induction l with
  | nil => simp [adjacent]
  | cons a l ih =>
    rw [List.cons_append, adjacent_cons, adjacent_cons, ih]
    cases l with
    | nil => simp [adjacent]
    | cons b l => simp [List.getLast?_cons_cons, and_assoc]

theorem endsInMark_append (l : List WireEntry) (b a : Nat) :
    endsInMark (l ++ [.low b] ++ [.high a, .uartIdle a]) a := ⟨l, b, by simp⟩

/-- The last entry of a list that ends in a mark. -/
theorem getLast?_of_endsInMark {l : List WireEntry} {a : Nat} (h : endsInMark l a) : l.getLast? = some (.uartIdle a) := by
  obtain ⟨k, b, rfl⟩ := h
  simp

theorem slotsAfterMark_nil : slotsAfterMark [] := by
  intro k t b r h
  simp at h

/-- Appending an entry asks for a mark before it exactly when the entry is a slot 0. -/
theorem slotsAfterMark_append_one (l : List WireEntry) (x : WireEntry) :
    slotsAfterMark (l ++ [x]) ↔ slotsAfterMark l ∧ ∀ t b, x = .slot t 0 b → ∃ a, endsInMark l a := by
  constructor
  · intro h
    refine ⟨fun k t b r hl => h k t b (r ++ [x]) (by simp [hl]), fun t b hx => h l t b [] (by rw [hx])⟩
  · rintro ⟨h, hx⟩ k t b r hl
    rcases List.eq_nil_or_concat r with rfl | ⟨r, y, rfl⟩
    · obtain ⟨rfl, hxe⟩ := List.append_inj' hl rfl
      exact hx t b (by simpa using hxe)
    · rw [List.concat_eq_append, ← List.cons_append, ← List.append_assoc] at hl
      exact h k t b r (List.append_inj' hl rfl).1

theorem beginsAtRest_nil : beginsAtRest [] := by simp [beginsAtRest]

/-- Appending an entry matters to the beginning only where there was none. -/
theorem beginsAtRest_append_one (l : List WireEntry) (x : WireEntry) :
    beginsAtRest (l ++ [x]) ↔ beginsAtRest l ∧ (l = [] → (∃ a, x = .low a) ∨ ∃ a, x = .uartIdle a) := by
  cases l <;> simp [beginsAtRest]

end Sys2Proof.Safety
end

