-- ==== Sys2Proof/Laws/Step.lean ====
section
/-! SUPPORT. What one step of an agent, and one step of the machine, can do: one inversion lemma per function, and the
small equations of `exec`, `runMove` and `step`. -/

namespace Sys2Proof.Machine

open Sys2Proof.Safety

/-! ### `exec` -/

@[simp] theorem exec_reset (s : State) : exec .reset s = .next (resetBlock s) := rfl
@[simp] theorem exec_set (a v : Int) (s : State) :
    exec (.set a v) s = .next (atChannel a s fun k => respond .ok (writeCb k (clamp8 v) s)) := rfl
@[simp] theorem exec_get (a : Int) (s : State) :
    exec (.get a) s = .next (atChannel a s fun k => respond (.value (readCb s k)) s) := rfl
@[simp] theorem exec_setAll (v : Int) (s : State) :
    exec (.setAll v) s = .next (respond .ok (fillCb (clamp8 v) s)) := rfl
@[simp] theorem exec_blendOne (a r g b : Int) (s : State) :
    exec (.blendOne a r g b) s = .next (atChannel a s fun k => respond .ok (writeCb k (blend r g b) s)) := rfl
@[simp] theorem exec_blendAll (r g b : Int) (s : State) :
    exec (.blendAll r g b) s = .next (respond .ok (fillCb (blend r g b) s)) := rfl
@[simp] theorem exec_tick (s : State) : exec .tick s = .next (tickWith Config.params s) := rfl
@[simp] theorem exec_timerExpired (s : State) : exec .timerExpired s = timerExpiredWith Config.params s := rfl
@[simp] theorem exec_txComplete (s : State) : exec .txComplete s = .next (txCompleted s) := rfl
@[simp] theorem exec_arm (d : Nat) (s : State) : exec (.arm d) s = .next (armTimer d s) := rfl
@[simp] theorem exec_disarm (s : State) : exec .disarm s = .next (disarmTimer s) := rfl
@[simp] theorem exec_setRawLow (s : State) : exec .setRawLow s = .next (driveLow s) := rfl
@[simp] theorem exec_setRawHigh (s : State) : exec .setRawHigh s = .next (driveHigh s) := rfl
@[simp] theorem exec_setUart (s : State) : exec .setUart s = .next (selectUart s) := rfl
@[simp] theorem exec_transmit (s : State) : exec .transmit s = transmitBuffer s := rfl
@[simp] theorem exec_abort (s : State) : exec .abort s = .next (abortTransmit s) := rfl

/-- The one shape of the five producer operations: a new Channel Buffer and a response, and nothing else; a canonical
buffer of channels stays one. -/
theorem exec_producer {i : Instr} (hi : classOf i = .producer) (s : State) :
    ∃ m r, exec i s = .next { s with cb := m, response := some r } ∧
      (BufferIn 1 512 s.cb → BufferIn 1 512 m) := by
  have one : ∀ (a : Int) (v : Byte), ∃ m r,
      atChannel a s (fun k => respond .ok (writeCb k v s)) = { s with cb := m, response := some r } ∧
        (BufferIn 1 512 s.cb → BufferIn 1 512 m) := by
    intro a v
    cases ha : validAddress a
    · exact ⟨s.cb, .invalidAddress, by rw [atChannel_invalid ha]; rfl, id⟩
    · exact ⟨s.cb.write a.toNat v, .ok, by rw [atChannel_valid ha]; rfl,
        fun h => bufferIn_write v h (toNat_of_valid ha)⟩
  have all : ∀ v : Byte, ∃ m r, respond .ok (fillCb v s) = { s with cb := m, response := some r } ∧
      (BufferIn 1 512 s.cb → BufferIn 1 512 m) := fun v =>
    ⟨Memory.fill 1 512 v, .ok, rfl, fun _ => bufferIn_fill v⟩
  cases i <;> try (simp [classOf] at hi; done)
  case set a v => obtain ⟨m, r, h, hw⟩ := one a (clamp8 v); exact ⟨m, r, congrArg _ h, hw⟩
  case get a =>
    cases ha : validAddress a
    · exact ⟨s.cb, .invalidAddress, by rw [exec_get, atChannel_invalid ha]; rfl, id⟩
    · exact ⟨s.cb, .value (readCb s a.toNat), by rw [exec_get, atChannel_valid ha]; rfl, id⟩
  case setAll v => obtain ⟨m, r, h, hw⟩ := all (clamp8 v); exact ⟨m, r, congrArg _ h, hw⟩
  case blendOne a x g b => obtain ⟨m, r, h, hw⟩ := one a (blend x g b); exact ⟨m, r, congrArg _ h, hw⟩
  case blendAll x g b => obtain ⟨m, r, h, hw⟩ := all (blend x g b); exact ⟨m, r, congrArg _ h, hw⟩

/-! ### Requests and moves -/

theorem runRequest_op {c : Context} {w : RequestWord} {i : Instr} (hw : decode w = .op i) (hc : mayRequest c i = true)
    (s : State) : runRequest c w s = exec i s := by
  simp [runRequest, hw, hc]

theorem runRequest_next {c : Context} {w : RequestWord} {s t : State} (h : runRequest c w s = .next t) :
    ∃ i, decode w = .op i ∧ mayRequest c i = true ∧ exec i s = .next t := by
  unfold runRequest at h
  split at h
  · cases h
  · rename_i i hw
    split at h
    · exact ⟨i, hw, ‹_›, h⟩
    · cases h

/-- An operation from a context other than the internal command ports is of class S, P or F. -/
theorem classOf_of_mayRequest {c : Context} {i : Instr} (hc : c ≠ .commandPort) (h : mayRequest c i = true) :
    classOf i = .system ∨ classOf i = .producer ∨ classOf i = .frame := by
  unfold mayRequest at h
  split at h <;> simp_all

@[simp] theorem runMove_request (c : Context) (w : RequestWord) (s : State) :
    runMove (.request c w) s = runRequest c w s := rfl
@[simp] theorem runMove_advance (n : Nat) (s : State) : runMove (.advance n) s = advanceWith Config.params n s := rfl
@[simp] theorem runMove_expire (s : State) : runMove .expire s = expireWith Config.params s := rfl
@[simp] theorem runMove_txSlot (s : State) : runMove .txSlot s = txSlot s := rfl
@[simp] theorem runMove_txDone (s : State) : runMove .txDone s = txDone s := rfl

/-- Everything an agent's move can do. -/
theorem runMove_next {m : Move} {s t : State} (h : runMove m s = .next t) (hm : m.internal = false) :
    (∃ n, m = .advance n ∧ advanceEnabled Config.params n s = true ∧ t = passTime n s) ∨
    (m = .expire ∧ expireEnabled s = true ∧ timerExpiredWith Config.params (disarmTimer s) = .next t) ∨
    (∃ i tn, ∃ hi : i.val ≤ 512, m = .txSlot ∧ s.tx = .busy i tn ∧ tn ≤ s.now ∧ t = startSlot i hi s) ∨
    (m = .txDone ∧ doneEnabled s = true ∧ t = txCompleted (finishTransmit s)) ∨
    (∃ mem r, t = { s with cb := mem, response := some r } ∧
      (BufferIn 1 512 s.cb → BufferIn 1 512 mem)) ∨
    (m.presents .tick = true ∧ t = tickWith Config.params s) ∨
    (m.presents .timerExpired = true ∧ timerExpiredWith Config.params s = .next t) ∨
    (m.presents .txComplete = true ∧ t = txCompleted s) ∨
    (m.presents .reset = true ∧ t = resetBlock s) := by
  cases m with
  | advance n => exact .inl ⟨n, rfl, advanceWith_next h⟩
  | expire => exact .inr (.inl ⟨rfl, expireWith_next h⟩)
  | txSlot =>
    obtain ⟨i, tn, hi, h1, h2, h3⟩ := txSlot_next h
    exact .inr (.inr (.inl ⟨i, tn, hi, rfl, h1, h2, h3⟩))
  | txDone => exact .inr (.inr (.inr (.inl ⟨rfl, txDone_next h⟩)))
  | request c w =>
    obtain ⟨i, hw, hc, he⟩ := runRequest_next h
    have hc' : c ≠ .commandPort := by simpa [Move.internal] using hm
    rcases classOf_of_mayRequest hc' hc with hi | hi | hi
    · have : i = .reset := by cases i <;> simp_all [classOf]
      subst this
      injection he with he
      exact .inr (.inr (.inr (.inr (.inr (.inr (.inr (.inr ⟨by simp [Move.presents, hw], he.symm⟩)))))))
    · obtain ⟨mem, r, h1, h2⟩ := exec_producer hi s
      rw [h1] at he
      injection he with he
      exact .inr (.inr (.inr (.inr (.inl ⟨mem, r, he.symm, h2⟩))))
    · have : i = .tick ∨ i = .timerExpired ∨ i = .txComplete := by cases i <;> simp_all [classOf]
      rcases this with rfl | rfl | rfl
      · injection he with he
        exact .inr (.inr (.inr (.inr (.inr (.inl ⟨by simp [Move.presents, hw], he.symm⟩)))))
      · exact .inr (.inr (.inr (.inr (.inr (.inr (.inl ⟨by simp [Move.presents, hw], he⟩))))))
      · injection he with he
        exact .inr (.inr (.inr (.inr (.inr (.inr (.inr (.inl ⟨by simp [Move.presents, hw], he.symm⟩)))))))

/-- Everything a command at an internal port can do. -/
theorem runMove_internal {m : Move} {s t : State} (h : runMove m s = .next t) (hm : m.internal = true) :
    (∃ d, t = armTimer d s) ∨ t = disarmTimer s ∨ t = driveLow s ∨ t = driveHigh s ∨ t = selectUart s ∨
    (s.tx = .idle ∧ t = startTransmit s) ∨ t = abortTransmit s := by
  cases m with
  | advance n => cases hm
  | expire => cases hm
  | txSlot => cases hm
  | txDone => cases hm
  | request c w =>
    obtain ⟨i, hw, hc, he⟩ := runRequest_next h
    have hcp : c = .commandPort := by simpa [Move.internal] using hm
    subst hcp
    cases i <;> simp only [mayRequest, classOf, reduceCtorEq] at hc
    case arm d => injection he with he; exact .inl ⟨d, he.symm⟩
    case disarm => injection he with he; exact .inr (.inl he.symm)
    case setRawLow => injection he with he; exact .inr (.inr (.inl he.symm))
    case setRawHigh => injection he with he; exact .inr (.inr (.inr (.inl he.symm)))
    case setUart => injection he with he; exact .inr (.inr (.inr (.inr (.inl he.symm))))
    case transmit => exact .inr (.inr (.inr (.inr (.inr (.inl (transmitBuffer_next.mp he))))))
    case abort => injection he with he; exact .inr (.inr (.inr (.inr (.inr (.inr he.symm)))))

/-- No move touches the trace. -/
theorem runMove_trace {m : Move} {s t : State} (h : runMove m s = .next t) : t.trace = s.trace := by
  have te : ∀ {u : State}, timerExpiredWith Config.params u = .next t → t.trace = u.trace := by
    intro u h
    rcases timerExpiredWith_next h with ⟨-, rfl⟩ | ⟨-, -, rfl⟩ | ⟨-, rfl⟩ <;> simp
  have tc : ∀ u : State, (txCompleted u).trace = u.trace := by
    intro u
    rcases txCompleted_cases u with ⟨-, h⟩ | ⟨-, h⟩ <;> simp [h]
  cases hm : m.internal
  · rcases runMove_next h hm with ⟨n, -, -, rfl⟩ | ⟨-, -, h⟩ | ⟨i, tn, hi, -, -, -, rfl⟩ | ⟨-, -, rfl⟩ | ⟨mem, r, rfl, -⟩ |
      ⟨-, rfl⟩ | ⟨-, h⟩ | ⟨-, rfl⟩ | ⟨-, rfl⟩
    · rfl
    · exact te h
    · rfl
    · exact tc _
    · rfl
    · rcases tickWith_cases Config.params s with ⟨-, -, h⟩ | ⟨-, -, h⟩ | h <;> simp [h]
    · exact te h
    · exact tc _
    · simp
  · rcases runMove_internal h hm with ⟨d, rfl⟩ | rfl | rfl | rfl | rfl | ⟨-, rfl⟩ | rfl <;> simp

/-- A command at an internal port presents none of the operations of the frame-state machine, nor a `RESET`. -/
theorem classOf_of_commandPort {i : Instr} (h : mayRequest .commandPort i = true) :
    classOf i = .timing ∨ classOf i = .line := by
  cases i <;> simp_all [mayRequest, classOf]

/-! ### `step` -/

theorem step_trace {s : State} {m : Move} {rest : List Move} (h : s.trace = m :: rest) :
    step s = runMove m (takeMove rest s) := by
  simp [step, stepOnce, h]

theorem step_free {s : State} (h : s.trace = []) : step s = runFree (Config.freeMove s.draws) (drawMove s) := by
  simp [step, stepOnce, h]

/-- A free move is either taken as a move of an agent, or nothing happens. -/
theorem runFree_cases (m : Move) (s : State) :
    (m.internal = false ∧ ∃ t, runMove m s = .next t ∧ runFree m s = .next t) ∨ runFree m s = .next s := by
  unfold runFree
  cases hm : m.internal
  · cases hr : runMove m s with
    | next t => simp
    | fault r => cases r
    | refused r => simp
  · simp

theorem nextMove_trace {s : State} {m : Move} {rest : List Move} (h : s.trace = m :: rest) : nextMove s = m := by
  simp [nextMove, h]

theorem nextMove_free {s : State} (h : s.trace = []) : nextMove s = Config.freeMove s.draws := by
  simp [nextMove, h]

/-- Everything a step of the machine can do: take the move at the head of the trace, or take a free move of an agent, or
let nothing happen. -/
theorem step_next {s t : State} (h : step s = .next t) :
    (∃ rest, s.trace = nextMove s :: rest ∧ runMove (nextMove s) (takeMove rest s) = .next t) ∨
    (s.trace = [] ∧ (nextMove s).internal = false ∧ runMove (nextMove s) (drawMove s) = .next t) ∨
    (s.trace = [] ∧ t = drawMove s) := by
  cases ht : s.trace with
  | cons m rest =>
    rw [step_trace ht] at h
    exact .inl ⟨rest, by rw [nextMove_trace ht], by rw [nextMove_trace ht]; exact h⟩
  | nil =>
    rw [step_free ht] at h
    rcases runFree_cases (Config.freeMove s.draws) (drawMove s) with ⟨hm, u, hu, hr⟩ | hr
    · rw [hr] at h
      injection h with h
      subst h
      exact .inr (.inl ⟨rfl, by rw [nextMove_free ht]; exact hm, by rw [nextMove_free ht]; exact hu⟩)
    · rw [hr] at h
      injection h with h
      exact .inr (.inr ⟨rfl, h.symm⟩)

/-- A run takes one step, then the rest. -/
theorem run_succ {s t : State} (k : Nat) (h : step s = .next t) : Sys2Proof.core.run (k + 1) s = Sys2Proof.core.run k t := by
  have hr : ∀ (M : Host.Core) (x y : M.State), M.step x = .next y → M.run (k + 1) x = M.run k y := by
    intro M x y hxy
    simp [Host.Core.run, hxy]
  exact hr Sys2Proof.core s t h

@[simp] theorem runMoves_nil (s : State) : runMoves [] s = .next s := rfl

theorem runMoves_cons (m : Move) (ms : List Move) (s : State) :
    runMoves (m :: ms) s = onNext (runMove m s) (runMoves ms) := rfl

theorem onNext_next {o : Host.Outcome State Fault Refusal} {k : State → Host.Outcome State Fault Refusal} {t : State}
    (h : onNext o k = .next t) : ∃ s, o = .next s ∧ k s = .next t := by
  cases o with
  | next s => exact ⟨s, rfl, h⟩
  | fault r => cases r
  | refused r => simp [onNext] at h

@[simp] theorem onNext_of_next (s : State) (k : State → Host.Outcome State Fault Refusal) :
    onNext (.next s) k = k s := rfl

theorem runMoves_append (ms ns : List Move) (s : State) :
    runMoves (ms ++ ns) s = onNext (runMoves ms s) (runMoves ns) := by
  induction ms generalizing s with
  | nil => rfl
  | cons m ms ih =>
    rw [List.cons_append, runMoves_cons, runMoves_cons]
    cases hr : runMove m s with
    | next t => simpa using ih t
    | fault r => cases r
    | refused r => rfl

end Sys2Proof.Machine
end

