-- ==== Sys2Proof/Tests/Slice0.lean ====
section
/-! SUPPORT. The model's own tests. Every expected value is a vector of spec/95_test_vectors.md (named in the docstring)
or is worked out by hand from the rule named; the last part gives, for each statement with hypotheses, a concrete state and
operands that meet them. -/

namespace Sys2Proof.Tests

open Sys2Proof.Machine Sys2Proof.Safety

/-! ### Small states -/

/-- A block at rest: the reset state with both buffers empty and the frame start at 0. -/
def rest : State where
  cb := []
  tb := []
  fs := .idle
  fc := 0
  tmr := .disarmed
  lm := .uart
  tx := .idle
  fst := 0
  now := 0
  wire := []
  flog := []
  response := none
  trace := []
  draws := 1

/-- In the break that began at 0, due at `d`. -/
def inBreak (d now : Nat) : State :=
  { rest with fs := .brk, tmr := .armed d, lm := .rawLow, wire := [.low 0], now := now }

/-- In the mark that began at `a` after a break from 0, due at `d`. -/
def inMark (a d now : Nat) : State :=
  { rest with fs := .mark, tmr := .armed d, wire := [.low 0, .high a, .uartIdle a], now := now }

/-- In the data phase, before any slot, after a break from 0 and a mark from `a`. -/
def inData (a now : Nat) : State :=
  { rest with fs := .data, tx := .busy 0 a, wire := [.low 0, .high a, .uartIdle a], now := now }

/-- In the data phase with slot `i` next, not before `tn`. -/
def sending (i : Fin 514) (tn now : Nat) : State := { rest with fs := .data, tx := .busy i tn, now := now }

/-- The configuration of the vectors: `T_BREAK_US = 88`, `T_MAB_US = 8`, no jitter bound, `T_STALL_US = 30000`. -/
def board : Params := ⟨0, 0, none, some 30000⟩

/-- What the next state holds, none if there is none. -/
def after {α : Type} (o : Host.Outcome State Fault Refusal) (f : State → α) : Option α :=
  match o with
  | .next s => some (f s)
  | .fault _ => none
  | .refused _ => none

/-- Why the machine refuses, none if it does not. -/
def refusal (o : Host.Outcome State Fault Refusal) : Option Refusal :=
  match o with
  | .next _ => none
  | .fault _ => none
  | .refused r => some r

/-! ### Ill-formed operations are refused by the check (R83: 16-bit fields) -/

theorem test_wf_set_address : (Instr.set 32768 0).wellFormed = false := by decide
theorem test_wf_set_value : (Instr.set 0 (-32769)).wellFormed = false := by decide
theorem test_wf_get : (Instr.get (-32769)).wellFormed = false := by decide
theorem test_wf_setAll : (Instr.setAll 32768).wellFormed = false := by decide
theorem test_wf_blendOne_address : (Instr.blendOne 32768 0 0 0).wellFormed = false := by decide
theorem test_wf_blendOne_red : (Instr.blendOne 0 32768 0 0).wellFormed = false := by decide
theorem test_wf_blendOne_green : (Instr.blendOne 0 0 32768 0).wellFormed = false := by decide
theorem test_wf_blendOne_blue : (Instr.blendOne 0 0 0 32768).wellFormed = false := by decide
theorem test_wf_blendAll_red : (Instr.blendAll 32768 0 0).wellFormed = false := by decide
theorem test_wf_blendAll_green : (Instr.blendAll 0 (-32769) 0).wellFormed = false := by decide
theorem test_wf_blendAll_blue : (Instr.blendAll 0 0 32768).wellFormed = false := by decide
theorem test_wf_arm : (Instr.arm 65536).wellFormed = false := by decide

/-! ### Written-out request words -/

theorem test_word_reset : decode 0x000000000000000000 = .op .reset := by decide
/-- V-P1 and V-P3. -/
theorem test_word_set : decode 0x10000100FF00000000 = .op (.set 1 255) ∧
    decode 0x100001FFFF00000000 = .op (.set 1 (-1)) := by decide
/-- V-P13. -/
theorem test_word_get : decode 0x110201000000000000 = .op (.get 513) := by decide
/-- V-P15. -/
theorem test_word_setAll : decode 0x120000FFFC00000000 = .op (.setAll (-4)) := by decide
/-- V-P17 and V-P23. -/
theorem test_word_blendOne : decode 0x130007000A0014001E = .op (.blendOne 7 10 20 30) ∧
    decode 0x130001FFFB006400C8 = .op (.blendOne 1 (-5) 100 200) := by decide
/-- V-P26. -/
theorem test_word_blendAll : decode 0x14000000FF00000000 = .op (.blendAll 255 0 0) := by decide
/-- V-E3. -/
theorem test_word_tick : decode 0x20FFFFFFFFFFFFFFFF = .op .tick := by decide
/-- Program P3, step 6. -/
theorem test_word_timerExpired : decode 0x210000000000000000 = .op .timerExpired := by decide
/-- Program P3, step 1. -/
theorem test_word_txComplete : decode 0x220000000000000000 = .op .txComplete := by decide
/-- V-T1; a duration is zero-extended (R83). -/
theorem test_word_arm : decode 0x300000005800000000 = .op (.arm 88) ∧
    decode 0x300000FFFF00000000 = .op (.arm 65535) := by decide
/-- V-T3. -/
theorem test_word_disarm : decode 0x310000000000000000 = .op .disarm := by decide
/-- V-L1. -/
theorem test_word_setRawLow : decode 0x400000000000000000 = .op .setRawLow := by decide
/-- V-L2. -/
theorem test_word_setRawHigh : decode 0x410000000000000000 = .op .setRawHigh := by decide
/-- V-L3. -/
theorem test_word_setUart : decode 0x420000000000000000 = .op .setUart := by decide
/-- V-L4. -/
theorem test_word_transmit : decode 0x430000000000000000 = .op .transmit := by decide
/-- V-L9. -/
theorem test_word_abort : decode 0x440000000000000000 = .op .abort := by decide
/-- V-E1, V-E2, V-E4. -/
theorem test_word_reserved : decode 0x150000000000000000 = .invalid 0x15 ∧
    decode 0xFF0000000000000000 = .invalid 0xFF ∧ decode 0x230000000000000000 = .invalid 0x23 := by decide
/-- V-E5. -/
theorem test_word_unused_fields : decode 0x10000100FF12345678 = .op (.set 1 255) := by decide

/-! ### Producer operations -/

/-- V-P2: clamped high. -/
theorem test_set_clamps : after (exec (.set 1 300) rest) (fun t => (t.response, readCb t 1, t.tb)) =
    some (some .ok, 255, []) := by decide
/-- V-P8: the address is checked before the value. -/
theorem test_set_address_first : after (exec (.set 0 300) rest) (fun t => (t.response, t.cb)) =
    some (some .invalidAddress, []) := by decide
/-- V-P10. -/
theorem test_get : after (exec (.get 5) { rest with cb := [(5, 77)] }) (fun t => (t.response, t.response.map responseWord)) =
    some (some (.value 77), some 0x004D) := by decide
/-- V-P12. -/
theorem test_get_address : after (exec (.get 0) rest) (fun t => t.response.map responseWord) = some (some 0x0100) := by
  decide
/-- V-P14: a channel in the middle. -/
theorem test_setAll : after (exec (.setAll 128) rest) (fun t => (readCb t 1, readCb t 20)) =
    some (128, 128) := by decide
/-- V-P15. -/
theorem test_setAll_negative : after (exec (.setAll (-4)) { rest with cb := [(5, 77)] }) (fun t => t.cb) = some [] := by
  decide
/-- V-P22: each component is clamped before the sum. -/
theorem test_blendOne_clamps_first : after (exec (.blendOne 1 300 0 0) rest) (fun t => readCb t 1) = some 85 := by decide
/-- V-P21: the average truncates. -/
theorem test_blendOne_truncates : after (exec (.blendOne 1 255 255 254) rest) (fun t => readCb t 1) = some 254 := by decide
/-- V-P26. -/
theorem test_blendAll : after (exec (.blendAll 255 0 0) rest) (fun t => readCb t 20) = some 85 := by decide

/-! ### The frame-state machine -/

/-- V-F1. -/
theorem test_tick_starts :
    let t := tickWith board { rest with cb := [(5, 77)], tb := [(0, 9), (7, 1)], fst := 50 }
    (t.fs, t.tmr, t.tx, t.lm) = (.brk, .armed 88, .idle, .rawLow) ∧
    (t.fst, t.wire, readTb t 0, readTb t 5) = (0, [.low 0], 0, 77) := by decide
/-- V-F13, V-F16, V-F17. -/
theorem test_tick_otherwise :
    let t := tickWith board (inBreak 88 30001)
    tickWith board { rest with tx := .busy 100 4496, now := 4496 } = { rest with tx := .busy 100 4496, now := 4496 } ∧
    tickWith board (inBreak 88 30000) = inBreak 88 30000 ∧
    (t.fs, t.tmr, t.lm, t.fc) = (.idle, .disarmed, .rawLow, 1) ∧
    (t.flog, t.wire) = ([(.stalledFrame, .brk)], [.low 0]) := by decide
/-- V-F14: a spurious signal ends the break at once. -/
theorem test_timerExpired_break : after (timerExpiredWith board (inBreak 88 0)) (fun t => (t.fs, t.tmr, t.lm, t.wire)) =
    some (.mark, .armed 8, .uart, [.low 0, .high 0, .uartIdle 0]) := by decide
/-- V-F11. -/
theorem test_timerExpired_data :
    after (exec .timerExpired (inData 96 96)) (fun t => (t.fs, t.tmr, t.tx, t.fc)) = some (.idle, .disarmed, .idle, 1) ∧
    after (exec .timerExpired (inData 96 96)) (fun t => (t.wire, t.flog)) =
      some ([.low 0, .high 96, .uartIdle 96, .abort 96], [(.unexpectedSignal, .data)]) := by decide
/-- V-F12: taken as genuine, the transmitter runs on. -/
theorem test_txComplete_data : after (exec .txComplete (inData 96 96)) (fun t => (t.fs, t.tx, t.fc)) =
    some (.idle, .busy 0 96, 0) := by decide
/-- V-F9: the line stays low. -/
theorem test_txComplete_break : after (exec .txComplete (inBreak 88 0)) (fun t => (t.fs, t.tmr, t.lm, t.flog)) =
    some (.idle, .disarmed, .rawLow, [(.unexpectedSignal, .brk)]) := by decide
/-- V-F19. -/
theorem test_reset :
    let o := exec .reset { sending 200 8896 8896 with cb := [(5, 77)], fc := 3 }
    after o (fun t => (t.cb, t.fs, t.fc, t.tmr)) = some ([], .idle, 0, .disarmed) ∧
    after o (fun t => (t.lm, t.tx, t.now, t.wire)) = some (.uart, .idle, 8896, [.abort 8896, .uartIdle 8896]) := by decide

/-! ### The timing coordinator and the environment -/

/-- V-T2. -/
theorem test_arm_replaces : after (exec (.arm 8) (inBreak 1088 1010)) (fun t => t.tmr) = some (.armed 1018) := by decide
/-- V-T9. -/
theorem test_arm_zero : after (exec (.arm 0) { rest with now := 1000 }) (fun t => (t.tmr, expireEnabled t)) =
    some (.armed 1000, true) := by decide
/-- V-T3. -/
theorem test_disarm : after (exec .disarm (inBreak 1088 1010)) (fun t => t.tmr) = some .disarmed := by decide
/-- V-F5 and V-F6. -/
theorem test_expire :
    after (expireWith board (inBreak 88 88)) (fun t => (t.fs, t.tmr, t.lm, t.wire)) =
      some (.mark, .armed 96, .uart, [.low 0, .high 88, .uartIdle 88]) ∧
    after (expireWith board (inMark 88 96 96)) (fun t => (t.fs, t.tmr, t.tx)) = some (.data, .disarmed, .busy 0 96) := by
  decide
/-- V-T5. -/
theorem test_expire_early : refusal (expireWith board (inBreak 1088 1087)) = some .notEnabled := by decide
/-- V-T7 and V-T8. -/
theorem test_advance_jitter :
    refusal (advanceWith { board with jTmrUs := some 5 } 6 (inBreak 1088 1088)) = some .notEnabled ∧
    after (advanceWith { board with jTmrUs := some 5 } 5 (inBreak 1088 1088)) (fun t => t.now) = some 1093 := by decide

/-! ### The line driver -/

/-- V-L1. -/
theorem test_setRawLow : after (exec .setRawLow rest) (fun t => (t.lm, t.wire, lineLevel t)) =
    some (.rawLow, [.low 0], .low) := by decide
/-- V-L2. -/
theorem test_setRawHigh : after (exec .setRawHigh (inBreak 88 88)) (fun t => (t.lm, t.wire, lineLevel t)) =
    some (.rawHigh, [.low 0, .high 88], .high) := by decide
/-- V-L3. -/
theorem test_setUart : after (exec .setUart { rest with lm := .rawHigh, now := 88 }) (fun t => (t.lm, t.wire, lineLevel t)) =
    some (.uart, [.uartIdle 88], .high) := by decide
/-- V-L4. -/
theorem test_transmit : after (exec .transmit { rest with now := 96 }) (fun t => (t.tx, t.wire)) =
    some (.busy 0 96, []) := by decide
/-- V-L11. -/
theorem test_transmit_busy : refusal (exec .transmit (sending 5 300 300)) = some .transmitWhileBusy := by decide
/-- V-L9. -/
theorem test_abort : after (exec .abort (sending 200 8896 8896)) (fun t => (t.tx, t.wire)) =
    some (.idle, [.abort 8896]) := by decide
/-- V-L10. -/
theorem test_abort_idle : after (exec .abort rest) (fun t => t) = some rest := by decide
/-- V-L7. -/
theorem test_txSlot : after (txSlot { sending 1 140 150 with tb := [(1, 255)] }) (fun t => (t.tx, t.wire)) =
    some (.busy 2 194, [.slot 150 1 255]) := by decide
/-- V-L6. -/
theorem test_txSlot_early : refusal (txSlot (sending 1 140 139)) = some .notEnabled := by decide
/-- V-F20. -/
theorem test_txDone : after (txDone (sending 513 22668 22668)) (fun t => (t.fs, t.tx, t.fc, t.wire)) =
    some (.idle, .idle, 0, [.done 22668]) := by decide
/-- V-L8. -/
theorem test_txDone_early : refusal (txDone (sending 513 22668 22667)) = some .notEnabled := by decide

/-- The line-level paragraph of spec/95_test_vectors.md 2.4: slot 1 with byte 0x4D, started at 150. -/
theorem test_lineLevel : ∀ n : Fin 48,
    lineLevel { sending 2 194 (150 + n.val) with tb := [(1, 0x4D)] } =
      if n.val < 4 then .low else if n.val < 8 then .high else if n.val < 12 then .low else if n.val < 20 then .high
      else if n.val < 28 then .low else if n.val < 32 then .high else if n.val < 36 then .low else .high := by decide

/-! ### The step -/

/-- A presented request takes its place at the head of the trace, and only then the rest of the trace runs (R93). -/
theorem test_step_presented :
    after (step ({ rest with trace := [.advance 5] }.withFetchWord 72 0x10000100FF00000000))
      (fun t => (readCb t 1, t.now, t.trace)) = some (255, 0, [.advance 5]) := by decide
/-- V-E1: a reserved code is refused. -/
theorem test_step_reserved : refusal (step (rest.withFetchWord 72 0x150000000000000000)) = some (.reservedOpcode 0x15) := by
  decide
/-- R212: `tick()` from a signal context. -/
theorem test_step_context :
    refusal (step { rest with trace := [.request .timerSignal 0x200000000000000000] }) = some .wrongContext := by decide

/-! ### The small states satisfy the invariants -/

theorem rest_consistent : Consistent rest := by
  refine ⟨bufferIn_nil 1 512, bufferIn_nil 0 512, ?_, ?_, ?_, ?_, ?_, ?_, ?_, ?_, ?_, ?_⟩ <;> decide

theorem inBreak_consistent (d now : Nat) : Consistent (inBreak d now) := by
  refine ⟨bufferIn_nil 1 512, bufferIn_nil 0 512, ?_, ?_, ?_, ?_, ?_, ?_, ?_, ?_, ?_, ?_⟩ <;> simp [inBreak, rest, busy]

theorem inMark_consistent (a d now : Nat) : Consistent (inMark a d now) := by
  refine ⟨bufferIn_nil 1 512, bufferIn_nil 0 512, ?_, ?_, ?_, ?_, ?_, ?_, ?_, ?_, ?_, ?_⟩ <;> simp [inMark, rest, busy]

theorem inData_consistent (a now : Nat) : Consistent (inData a now) := by
  refine ⟨bufferIn_nil 1 512, bufferIn_nil 0 512, ?_, ?_, ?_, ?_, ?_, ?_, ?_, ?_, ?_, ?_⟩ <;> simp [inData, rest]

theorem sending_consistent (i : Fin 514) (tn now : Nat) : Consistent (sending i tn now) := by
  refine ⟨bufferIn_nil 1 512, bufferIn_nil 0 512, ?_, ?_, ?_, ?_, ?_, ?_, ?_, ?_, ?_, ?_⟩ <;> simp [sending, rest]

/-- A trace of agents' moves may be put before a consistent state. -/
theorem consistent_with_trace {s : State} {ms : List Move} (h : Consistent s) (hm : ∀ m ∈ ms, m.internal = false) :
    Consistent { s with trace := ms } := h.of_same rfl rfl rfl rfl rfl rfl rfl rfl hm

theorem inBreak_ordered (d now : Nat) : WireOrdered (inBreak d now) := by
  refine ⟨inBreak_consistent d now, trivial, ?_, ?_, ?_, ?_, ?_, ?_, ?_⟩ <;> try simp [inBreak, rest, beginsAtRest]
  exact (slotsAfterMark_append_one [] _).mpr ⟨slotsAfterMark_nil, by simp⟩

theorem slotsAfterMark_mark (a : Nat) : slotsAfterMark [.low 0, .high a, .uartIdle a] := by
  rw [show [WireEntry.low 0, .high a, .uartIdle a] = (([] ++ [.low 0]) ++ [.high a]) ++ [.uartIdle a] from rfl]
  simp only [slotsAfterMark_append_one]
  simp [slotsAfterMark_nil]

theorem inData_ordered {a now : Nat} (h : a ≤ now) : WireOrdered (inData a now) := by
  refine ⟨inData_consistent a now, ⟨Nat.zero_le a, rfl, trivial⟩, ?_, slotsAfterMark_mark a, ?_, ?_, ?_, ?_, ?_⟩ <;>
    try simp [inData, rest, beginsAtRest]
  exact ⟨a, ⟨[], 0, rfl⟩, h⟩

theorem rest_faultFree : FaultFree rest := ⟨rest_consistent, rfl, by decide, by decide⟩

theorem inBreak_faultFree (d now : Nat) : FaultFree (inBreak d now) :=
  ⟨inBreak_consistent d now, rfl, by simp [inBreak, rest, busy], by simp [inBreak, rest, armed]⟩

/-- At the instant a frame starts, no watchdog fires, whatever the stall time. -/
theorem inBreak_notStalled (d : Nat) : stalled Config.params (inBreak d 0) = false := by
  unfold stalled exceeds
  split <;> simp [inBreak]

/-! ### Witnesses: each statement's hypotheses can be met -/

theorem witness_DecodeEncodeRoundTrip : (Instr.set 32767 (-32768)).wellFormed = true ∧ (Instr.arm 65535).wellFormed = true ∧
    (Instr.blendOne (-32768) 32767 0 (-1)).wellFormed = true := by decide

theorem witness_DecodedOperationsReencode : decode 0x20FFFFFFFFFFFFFFFF = .op .tick := by decide

theorem witness_ReservedOpcodesHaveNoMeaning : fieldOpc 0x150000000000000000 ∉ listedOpcodes ∧
    fieldOpc 0x010000000000000000 ∉ listedOpcodes ∧ fieldOpc 0x450000000000000000 ∉ listedOpcodes := by decide

theorem witness_StepRunsRequestedOperation :
    ({ rest with trace := [.request .driverLoop 0x200000000000000000] } : State).trace =
      .request .driverLoop 0x200000000000000000 :: [] ∧
    decode 0x200000000000000000 = .op .tick ∧ mayRequest .driverLoop .tick = true := by decide

theorem witness_StepTakesAutonomousMove :
    ({ rest with trace := [.advance 5] } : State).trace = .advance 5 :: [] ∧
    ({ rest with trace := [.expire] } : State).trace = .expire :: [] ∧
    ({ rest with trace := [.txSlot] } : State).trace = .txSlot :: [] ∧
    ({ rest with trace := [.txDone] } : State).trace = .txDone :: [] := by decide

theorem witness_PresentedWordRuns : decodeTableWord 72 0x10000100FF00000000 = some (.set 1 255) ∧
    decodeTableWord 72 0x440000000000000000 = some .abort := by decide

theorem witness_WrongContextRefused : decode 0x200000000000000000 = .op .tick ∧ mayRequest .timerSignal .tick = false ∧
    decode 0x310000000000000000 = .op .disarm ∧ mayRequest .driverLoop .disarm = false := by decide

/-- Both sides of both ends of the address range. -/
theorem witness_SetStoresClampedValue : fieldOpc 0x100201000A00000000 = 0x10 ∧
    ((0 : Int) < 1 ∨ (512 : Int) < 0) ∧ ((513 : Int) < 1 ∨ (512 : Int) < 513) ∧
    ((1 : Int) ≤ 1 ∧ (1 : Int) ≤ 512) ∧ ((1 : Int) ≤ 512 ∧ (512 : Int) ≤ 512) ∧ 2 ≠ (1 : Int).toNat := by decide

theorem witness_GetReturnsChannelByte : ((0 : Int) < 1 ∨ (512 : Int) < 0) ∧ ((513 : Int) < 1 ∨ (512 : Int) < 513) ∧
    ((1 : Int) ≤ 1 ∧ (1 : Int) ≤ 512) ∧ ((1 : Int) ≤ 512 ∧ (512 : Int) ≤ 512) := by decide

theorem witness_SetAllFillsEveryChannel : fieldOpc 0x120000FFFC00000000 = 0x12 ∧ 1 ≤ 1 ∧ 1 ≤ 512 ∧ 512 ≤ 512 := by decide

theorem witness_BlendOneStoresTruncatedAverage : ((0 : Int) < 1 ∨ (512 : Int) < 0) ∧ ((513 : Int) < 1 ∨ (512 : Int) < 513) ∧
    ((1 : Int) ≤ 1 ∧ (1 : Int) ≤ 512) ∧ ((1 : Int) ≤ 512 ∧ (512 : Int) ≤ 512) ∧ 2 ≠ (1 : Int).toNat := by decide

theorem witness_BlendAllFillsEveryChannel : 1 ≤ 1 ∧ 1 ≤ 512 ∧ 512 ≤ 512 := by decide

/-- One of each side of the equivalence. -/
theorem witness_InvalidAddressReportedExactly :
    classOf (.set 513 10) = .producer ∧ (∃ t, exec (.set 513 10) rest = .next t ∧ t.response = some .invalidAddress) ∧
    classOf (.set 512 10) = .producer ∧ ∃ t, exec (.set 512 10) rest = .next t ∧ t.response = some .ok :=
  ⟨rfl, ⟨_, rfl, rfl⟩, rfl, _, rfl, rfl⟩

theorem witness_ClampAndAverageLaws : (-5 : Int) ≤ 300 ∧ (0 : Int) ≤ 0 ∧ (0 : Int) ≤ 255 ∧ (255 : Int) ≤ 255 := by decide

theorem witness_ProducerTouchesOnlyChannelBuffer :
    classOf (.blendAll 255 0 0) = .producer ∧ (inBreak 88 0).cb = rest.cb := by decide

theorem witness_ReadsPureWritesIdempotent :
    (∃ t, exec (.get 5) rest = .next t) ∧ (∃ t, exec .tick rest = .next t) ∧
    (∃ t, runMove .txSlot (inData 96 96) = .next t) ∧
    (∃ a v, Instr.set 5 77 = .set a v) ∧ ∃ t, exec (.set 5 77) rest = .next t :=
  ⟨⟨_, rfl⟩, ⟨_, rfl⟩, ⟨_, rfl⟩, ⟨5, 77, rfl⟩, _, rfl⟩

theorem witness_ChannelBufferWrittenOnlyByProducer :
    ∃ t, runMove (.request .driverLoop 0x10000100FF00000000) rest = .next t ∧ t.cb ≠ rest.cb :=
  ⟨_, rfl, by decide⟩

theorem witness_TransmitBufferWrittenOnlyAtFrameStart :
    ∃ t, runMove (.request .driverLoop 0x200000000000000000) { rest with cb := [(5, 77)] } = .next t ∧ t.tb ≠ rest.tb :=
  ⟨_, rfl, by decide⟩

theorem witness_TransmitBufferStableInFlight :
    ∃ t, step { inData 96 96 with trace := [.txSlot] } = .next t ∧
      busy { inData 96 96 with trace := [.txSlot] } = true ∧ busy t = true := ⟨_, rfl, rfl, rfl⟩

theorem witness_TickStartsFrame : rest.fs = .idle ∧ rest.tx = .idle ∧ 1 ≤ 1 ∧ 512 ≤ 512 := by decide

theorem witness_TickBackpressure : (inBreak 88 0).fs ≠ .idle ∧ stalled Config.params (inBreak 88 0) = false ∧
    (sending 100 4496 4496).fs ≠ .idle ∧ ({ rest with tx := .busy 100 4496 } : State).fs = .idle ∧
    busy { rest with tx := .busy 100 4496 } = true :=
  ⟨by decide, inBreak_notStalled 88, by decide, rfl, rfl⟩

/-- The two values where the clauses meet, and an infinite stall time. -/
theorem witness_WatchdogRecoversStalledFrame : (inBreak 88 0).fs ≠ .idle ∧ board.tStallUs = some 30000 ∧
    30000 < (inBreak 88 30001).now - (inBreak 88 30001).fst ∧ (inBreak 88 30000).now - (inBreak 88 30000).fst ≤ 30000 ∧
    ({ board with tStallUs := none } : Params).tStallUs = none := by decide

theorem witness_TimerExpiredEndsBreak : (inBreak 88 88).fs = .brk := rfl

theorem witness_TimerExpiredStartsTransmission : (inMark 88 96 96).fs = .mark ∧ (inMark 88 96 96).tx = .idle ∧
    ({ inMark 88 96 96 with tx := .busy 5 300 } : State).fs = .mark ∧
    ({ inMark 88 96 96 with tx := .busy 5 300 } : State).tx ≠ .idle := by decide

theorem witness_TxCompleteEndsFrame : (inData 96 96).fs = .data := rfl

theorem witness_UnexpectedSignalRecovers : rest.fs = .idle ∧ (inBreak 88 0).fs = .brk ∧ (inMark 88 96 88).fs = .mark ∧
    (inData 96 96).fs = .data := by decide

theorem witness_FaultsArePrecise :
    classOf .txComplete = .frame ∧ ∃ t, exec .txComplete rest = .next t ∧ t.fc ≠ rest.fc := ⟨rfl, _, rfl, by decide⟩

theorem witness_FrameStateFollowsCycle :
    (∃ t, runMove (.request .driverLoop 0x200000000000000000) rest = .next t ∧ t.fs ≠ rest.fs) ∧
    (∃ t, runMove .expire (inBreak 88 88) = .next t ∧ t.fs ≠ (inBreak 88 88).fs) ∧
    (∃ t, runMove .expire (inMark 88 96 96) = .next t ∧ t.fs ≠ (inMark 88 96 96).fs) ∧
    (∃ t, runMove .txDone (sending 513 22668 22668) = .next t ∧ t.fs ≠ (sending 513 22668 22668).fs) ∧
    (∃ t, runMove (.request .environment 0x220000000000000000) (inBreak 88 0) = .next t ∧ t.fs ≠ (inBreak 88 0).fs) ∧
    ∃ t, runMove (.request .environment 0) (inBreak 88 0) = .next t ∧ t.fs ≠ (inBreak 88 0).fs :=
  ⟨⟨_, rfl, by decide⟩, ⟨_, rfl, by decide⟩, ⟨_, rfl, by decide⟩, ⟨_, rfl, by decide⟩, ⟨_, rfl, by decide⟩, _, rfl,
    by decide⟩

theorem witness_TickAfterFaultStartsFrame :
    classOf .timerExpired = .frame ∧ ∃ t, exec .timerExpired (inData 96 96) = .next t ∧ t.fc ≠ (inData 96 96).fc :=
  ⟨rfl, _, rfl, by decide⟩

theorem witness_ArmReplacesCountdown : ∃ t, exec (.arm 8) (inBreak 1088 1010) = .next t := ⟨_, rfl⟩

theorem witness_DisarmCancelsCountdown : fieldOpc 0x310000000000000000 = 0x31 ∧ rest.tmr = .disarmed ∧
    ∃ t, exec .disarm (inBreak 1088 1010) = .next t := ⟨rfl, rfl, _, rfl⟩

/-- The two values where the clauses meet; the disarmed timer; both armed phases. -/
theorem witness_ExpireDeliversExpectedSignal :
    (∀ d, (inBreak 1088 1087).tmr = .armed d → (inBreak 1088 1087).now < d) ∧ (∀ d, rest.tmr = .armed d → rest.now < d) ∧
    ((inBreak 88 88).tmr = .armed 88 ∧ 88 ≤ (inBreak 88 88).now ∧ Consistent (inBreak 88 88)) ∧
    (inMark 88 96 96).tmr = .armed 96 ∧ 96 ≤ (inMark 88 96 96).now ∧ Consistent (inMark 88 96 96) :=
  ⟨by simp [inBreak], by simp [rest], ⟨rfl, Nat.le_refl _, inBreak_consistent 88 88⟩, rfl, Nat.le_refl _,
    inMark_consistent 88 96 96⟩

/-- Each clause, and the two values where they meet. -/
theorem witness_AdvanceRespectsJitterBound : 1 ≤ 1 ∧ rest.tmr = .disarmed ∧ board.jTmrUs = none ∧
    ((inBreak 1088 1088).tmr = .armed 1088 ∧ ({ board with jTmrUs := some 5 } : Params).jTmrUs = some 5 ∧
      (inBreak 1088 1088).now + 5 ≤ 1088 + 5) ∧ 1088 + 5 < (inBreak 1088 1088).now + 6 := by decide

theorem witness_OneGenuineSignalAtATime : Consistent (inBreak 88 88) ∧ expireEnabled (inBreak 88 88) = true :=
  ⟨inBreak_consistent 88 88, by decide⟩

theorem witness_LineModeCommands : rest.tx = .idle := rfl

theorem witness_TransmitNeedsIdleTransmitter : rest.tx = .idle ∧ (sending 5 300 300).tx ≠ .idle := by decide

theorem witness_AbortCancelsTransmission : (sending 200 8896 8896).tx ≠ .idle ∧ rest.tx = .idle ∧
    ∃ t, exec .abort (sending 200 8896 8896) = .next t := ⟨by decide, rfl, _, rfl⟩

/-- The first slot, the last slot, and each reason for none. -/
theorem witness_TxSlotSendsNextByte :
    ((sending 0 96 96).tx = .busy 0 96 ∧ (0 : Fin 514).val ≤ 512 ∧ 96 ≤ (sending 0 96 96).now) ∧
    ((sending 512 22624 22624).tx = .busy 512 22624 ∧ (512 : Fin 514).val ≤ 512 ∧ 22624 ≤ (sending 512 22624 22624).now) ∧
    (∀ i tn, (sending 513 22668 22668).tx = .busy i tn → i.val = 513 ∨ (sending 513 22668 22668).now < tn) ∧
    (∀ i tn, (sending 1 140 139).tx = .busy i tn → i.val = 513 ∨ (sending 1 140 139).now < tn) ∧
    ∀ i tn, rest.tx = .busy i tn → i.val = 513 ∨ rest.now < tn := by
  refine ⟨⟨rfl, by decide, Nat.le_refl _⟩, ⟨rfl, by decide, Nat.le_refl _⟩, ?_, ?_, by simp [rest]⟩
  · intro i tn h
    injection h with hi
    exact .inl (congrArg Fin.val hi.symm)
  · intro i tn h
    injection h with _ ht
    exact .inr (by rw [← ht]; decide)

/-- The two values where the clauses meet, in `Data`. -/
theorem witness_TxDoneSignalsCompletion :
    ((sending 513 22668 22668).tx = .busy 513 22668 ∧ 22668 ≤ (sending 513 22668 22668).now ∧
      (sending 513 22668 22668).fs = .data) ∧
    ∀ tn, (sending 513 22668 22667).tx = .busy 513 tn → (sending 513 22668 22667).now < tn :=
  ⟨⟨rfl, Nat.le_refl _, rfl⟩, fun tn h => by injection h with _ ht; rw [← ht]; decide⟩

theorem witness_LineCarriesSlotBits : (sending 1 140 150).tx = .busy 1 140 ∧ (sending 1 140 150).lm = .uart ∧
    (∃ t, runMove .txSlot (sending 1 140 150) = .next t) ∧ 3 < 4 ∧ 7 < 8 ∧ 36 ≤ 36 :=
  ⟨rfl, rfl, ⟨_, rfl⟩, by decide, by decide, by decide⟩

theorem witness_StepKeepsConsistent :
    let s : State := { inBreak 88 0 with trace := [.request .environment 0x220000000000000000] }
    Consistent s ∧ (∃ t, step s = .next t) ∧ readTb s 0 = 0 ∧ (nextMove s).presents .reset = false :=
  ⟨consistent_with_trace (inBreak_consistent 88 0) (by decide), ⟨_, rfl⟩, rfl, by decide⟩

/-- Before slot 0 in a mark from `a`, with slot 0 as the next move. -/
def beforeSlot (a now : Nat) : State := { inData a now with trace := [.txSlot] }

theorem beforeSlot_ordered {a now : Nat} (h : a ≤ now) : WireOrdered (beforeSlot a now) := by
  obtain ⟨h1, h2, h3, h4, h5, h6, h7, h8, h9⟩ := inData_ordered h
  exact ⟨consistent_with_trace h1 (by decide), h2, h3, h4, h5, h6, h7, h8, h9⟩

theorem beforeSlot_steps {a now : Nat} (h : a ≤ now) : ∃ t, step (beforeSlot a now) = .next t := by
  refine ⟨startSlot 0 (by decide) (takeMove [] (beforeSlot a now)), ?_⟩
  simp [step, stepOnce, beforeSlot, inData, rest, takeMove, txSlot, h]

theorem witness_StepKeepsWireOrder : WireOrdered (beforeSlot 88 96) ∧ ∃ t, step (beforeSlot 88 96) = .next t :=
  ⟨beforeSlot_ordered (by decide), beforeSlot_steps (by decide)⟩

/-- A slot 0 after a reset's switch to the UART alone is not in order. -/
theorem test_slot_needs_mark : ¬ slotsAfterMark [.uartIdle 0, .slot 0 0 0] := by
  rw [show [WireEntry.uartIdle 0, .slot 0 0 0] = [.uartIdle 0] ++ [.slot 0 0 0] from rfl, slotsAfterMark_append_one]
  rintro ⟨-, h⟩
  obtain ⟨a, k, b, h⟩ := h 0 0 rfl
  exact absurd (congrArg List.length h) (by simp)

theorem witness_StepKeepsMinimumDurations :
    let s := beforeSlot Config.params.tBreakUs (Config.params.tBreakUs + Config.params.tMabUs)
    WireTimed Config.params s ∧ (nextMove s).spurious = false ∧ ∃ t, step s = .next t := by
  refine ⟨⟨beforeSlot_ordered (Nat.le_add_right _ _), ⟨?_, trivial, trivial⟩, ?_, ?_, ?_⟩, rfl,
    beforeSlot_steps (Nat.le_add_right _ _)⟩ <;> simp [beforeSlot, inData, rest, longEnough]

/-- In `Idle`, and in `Break` with a `TICK` for which the watchdog must not fire. -/
theorem witness_StepKeepsFaultFree :
    let s : State := { rest with trace := [.request .driverLoop 0x200000000000000000] }
    let u : State := { inBreak 88 0 with trace := [.request .driverLoop 0x200000000000000000] }
    (FaultFree s ∧ (nextMove s).spurious = false ∧ noStallAt s ∧ ∃ t, step s = .next t) ∧
    FaultFree u ∧ (nextMove u).spurious = false ∧ noStallAt u ∧ ∃ t, step u = .next t := by
  intro s u
  obtain ⟨h1, h2, h3, h4⟩ := rest_faultFree
  obtain ⟨g1, g2, g3, g4⟩ := inBreak_faultFree 88 0
  exact ⟨⟨⟨consistent_with_trace h1 (by decide), h2, h3, h4⟩, by decide, fun _ h => absurd rfl h, _, rfl⟩,
    ⟨consistent_with_trace g1 (by decide), g2, g3, g4⟩, by decide, fun _ _ => inBreak_notStalled 88, _, rfl⟩

/-- With a producer write and injected signals in between, and slot 0 on the wire. -/
theorem witness_SnapshotIsolation :
    ∃ s₁ t, exec .tick rest = .next s₁ ∧
      (∀ m ∈ [Move.request .driverLoop 0x100005004D00000000, .request .environment 0x210000000000000000,
        .request .environment 0x210000000000000000, .txSlot], m.internal = false) ∧
      runMoves [.request .driverLoop 0x100005004D00000000, .request .environment 0x210000000000000000,
        .request .environment 0x210000000000000000, .txSlot] s₁ = .next t ∧
      (∀ k, .low k ∉ gained s₁ t) ∧ .slot 0 0 0 ∈ gained s₁ t := by
  refine ⟨_, _, rfl, by decide, rfl, ?_, ?_⟩
  · intro k
    show WireEntry.low k ∉ [.high 0, .uartIdle 0, .slot 0 0 0]
    simp
  · show WireEntry.slot 0 0 0 ∈ [.high 0, .uartIdle 0, .slot 0 0 0]
    simp

theorem witness_EagerFrameReachesTheWire : rest.fs = .idle ∧ rest.tx = .idle := by decide

theorem witness_InjectedSignalsCompleteACycle : rest.fs = .idle ∧ rest.tx = .idle := by decide

/-- An agent's step, and a `TICK` outside `Idle`. -/
theorem witness_ChannelBufferNeverInfluencesFrame :
    (∀ c w i, Move.expire = .request c w → decode w = .op i → classOf i ≠ .producer ∧ i ≠ .reset) ∧
    (Move.expire.presents .tick = true → (inBreak 88 88).fs ≠ .idle ∨ busy (inBreak 88 88) = true) ∧
    (∀ c w i, Move.request .driverLoop 0x200000000000000000 = .request c w → decode w = .op i →
      classOf i ≠ .producer ∧ i ≠ .reset) ∧
    ((Move.request .driverLoop 0x200000000000000000).presents .tick = true →
      (inBreak 88 88).fs ≠ .idle ∨ busy (inBreak 88 88) = true) := by
  refine ⟨by simp, by decide, ?_, by decide⟩
  intro c w i h hw
  have ht : decode 0x200000000000000000 = .op .tick := by decide
  injection h with _ h
  rw [← h] at hw
  rw [show i = .tick by simpa using hw.symm.trans ht]
  decide

theorem witness_CountersMoveForward : (∃ t, runMove (.advance 1) rest = .next t) ∧
    (∃ t, runMove (.request .environment 0x220000000000000000) rest = .next t) ∧
    ∃ t, runMove (.request .environment 0) (inData 96 96) = .next t := ⟨⟨_, rfl⟩, ⟨_, rfl⟩, _, rfl⟩

/-- Each clause: a request with its word, and each autonomous step enabled in a consistent state. -/
theorem witness_AgentsAreNeverBlocked :
    (Consistent rest ∧ Context.driverLoop ≠ .commandPort ∧ mayRequest .driverLoop (.set 513 10) = true ∧
      decode 0x100201000A00000000 = .op (.set 513 10)) ∧
    (Consistent (inMark 88 96 96) ∧ expireEnabled (inMark 88 96 96) = true) ∧
    (Consistent (inData 96 96) ∧ slotEnabled (inData 96 96) = true) ∧
    Consistent (sending 513 22668 22668) ∧ doneEnabled (sending 513 22668 22668) = true :=
  ⟨⟨rest_consistent, by decide, by decide, by decide⟩, ⟨inMark_consistent 88 96 96, by decide⟩,
    ⟨inData_consistent 96 96, by decide⟩, sending_consistent 513 22668 22668, by decide⟩

/-- Two passages of time in a row are not admitted. -/
theorem test_onePassageEach : onePassageEach [.advance 8, .expire, .txSlot, .advance 44, .txSlot] ∧
    ¬ onePassageEach [.advance 4, .advance 4, .expire] := by decide

/-- A move that carries the cycle on, and one that does not. -/
theorem witness_CycleAdvancesInOrder :
    let m : Move := .request .driverLoop 0x200000000000000000
    (FaultFree rest ∧ m.internal = false ∧ m.spurious = false ∧ m.presents .reset = false ∧
      (m.presents .tick = true → rest.fs ≠ .idle → stalled Config.params rest = false) ∧ ∃ t, runMove m rest = .next t) ∧
    FaultFree (inBreak 88 0) ∧
      (m.presents .tick = true → (inBreak 88 0).fs ≠ .idle → stalled Config.params (inBreak 88 0) = false) ∧
      ∃ t, runMove m (inBreak 88 0) = .next t :=
  ⟨⟨rest_faultFree, by decide, by decide, by decide, fun _ h => absurd rfl h, _, rfl⟩, inBreak_faultFree 88 0,
    fun _ _ => inBreak_notStalled 88, _, rfl⟩

theorem witness_FrameInProgressCanFinish : FaultFree (inBreak 88 0) ∧ (inBreak 88 0).fs ≠ .idle :=
  ⟨inBreak_faultFree 88 0, by decide⟩

theorem witness_ResponseWordFields : (classOf (.get 5) = .producer ∧ ∃ t, exec (.get 5) rest = .next t) ∧
    classOf (.get 0) = .producer ∧ ∃ t, exec (.get 0) rest = .next t := ⟨⟨rfl, _, rfl⟩, rfl, _, rfl⟩

theorem witness_StatusBitsFollowCommands :
    (∃ t, exec (.arm 8) rest = .next t) ∧ (∃ t, exec .disarm rest = .next t) ∧ (∃ t, exec .transmit rest = .next t) ∧
    (∃ t, exec .abort rest = .next t) ∧ (∃ t, exec .reset rest = .next t) ∧
    (∃ t, runMove .txDone (sending 513 22668 22668) = .next t) ∧
    ∃ t, runMove .expire (inBreak 88 88) = .next t ∧ armed t = true :=
  ⟨⟨_, rfl⟩, ⟨_, rfl⟩, ⟨_, rfl⟩, ⟨_, rfl⟩, ⟨_, rfl⟩, ⟨_, rfl⟩, _, rfl, rfl⟩

end Sys2Proof.Tests
end

section
/-! SUPPORT. Proofs about the scope of the model (spec/00_scope.md): what one step of the machine runs. -/

namespace Sys2Proof.Machine

/-- Settles O5 (R6, R212): the step takes the move at the head of the trace, that move runs the request's word, and a
word presented in a context that may present it runs its operation. -/
theorem stepRunsRequestedOperation : Obligations.StepRunsRequestedOperation := by
  intro s c w rest i htrace hdecode hcontext
  calc step s
      = runMove (.request c w) (takeMove rest s) := step_trace htrace
    _ = runRequest c w (takeMove rest s) := runMove_request c w _
    _ = exec i (takeMove rest s) := runRequest_op hdecode hcontext _

end Sys2Proof.Machine
end

section
/-! SUPPORT. What the operations and the moves leave alone, said once per operation: the two buffers, the time, the
fault records (spec/10_state.md R21, R22, R24, R29, R37). -/

namespace Sys2Proof.Machine

open Sys2Proof.Safety

/-! ### Frame lemmas of the signals and of `TICK` -/

@[simp] theorem txCompleted_cb (s : State) : (txCompleted s).cb = s.cb := by
  rcases txCompleted_cases s with ⟨-, h⟩ | ⟨-, h⟩ <;> simp [h]

@[simp] theorem txCompleted_tb (s : State) : (txCompleted s).tb = s.tb := by
  rcases txCompleted_cases s with ⟨-, h⟩ | ⟨-, h⟩ <;> simp [h]

@[simp] theorem txCompleted_now (s : State) : (txCompleted s).now = s.now := by
  rcases txCompleted_cases s with ⟨-, h⟩ | ⟨-, h⟩ <;> simp [h]

@[simp] theorem tickWith_cb (p : Params) (s : State) : (tickWith p s).cb = s.cb := by
  rcases tickWith_cases p s with ⟨-, -, h⟩ | ⟨-, -, h⟩ | h <;> simp [h]

@[simp] theorem tickWith_now (p : Params) (s : State) : (tickWith p s).now = s.now := by
  rcases tickWith_cases p s with ⟨-, -, h⟩ | ⟨-, -, h⟩ | h <;> simp [h]

/-- `TIMER_EXPIRED` touches neither buffer and takes no time. -/
theorem timerExpiredWith_keeps {p : Params} {s t : State} (h : timerExpiredWith p s = .next t) :
    t.cb = s.cb ∧ t.tb = s.tb ∧ t.now = s.now := by
  rcases timerExpiredWith_next h with ⟨-, rfl⟩ | ⟨-, -, rfl⟩ | ⟨-, rfl⟩ <;> simp

/-- The fault records of `t` are those of `s`, or one fault further (R133). -/
def CountsAtMostOne (s t : State) : Prop :=
  (t.fc = s.fc ∧ t.flog = s.flog) ∨ (t.fc = s.fc + 1 ∧ ∃ c, t.flog = s.flog ++ [(c, s.fs)])

theorem CountsAtMostOne.of_same {s t : State} (hfc : t.fc = s.fc) (hfl : t.flog = s.flog) : CountsAtMostOne s t :=
  .inl ⟨hfc, hfl⟩

theorem countsAtMostOne_recover (c : FaultCause) (s : State) : CountsAtMostOne s (recover c s) :=
  .inr ⟨recover_fc c s, c, recover_flog c s⟩

theorem countsAtMostOne_tickWith (p : Params) (s : State) : CountsAtMostOne s (tickWith p s) := by
  rcases tickWith_cases p s with ⟨-, -, h⟩ | ⟨-, -, h⟩ | h <;> rw [h]
  · exact .of_same (startFrame_fc p s) (startFrame_flog p s)
  · exact countsAtMostOne_recover .stalledFrame s
  · exact .of_same rfl rfl

theorem countsAtMostOne_txCompleted (s : State) : CountsAtMostOne s (txCompleted s) := by
  rcases txCompleted_cases s with ⟨-, h⟩ | ⟨-, h⟩ <;> rw [h]
  · exact .of_same rfl rfl
  · exact countsAtMostOne_recover .unexpectedSignal s

theorem countsAtMostOne_timerExpiredWith {p : Params} {s t : State} (h : timerExpiredWith p s = .next t) :
    CountsAtMostOne s t := by
  rcases timerExpiredWith_next h with ⟨-, rfl⟩ | ⟨-, -, rfl⟩ | ⟨-, rfl⟩
  · exact .of_same rfl rfl
  · exact .of_same rfl rfl
  · exact countsAtMostOne_recover .unexpectedSignal s

/-! ### Frame lemmas of the moves -/

/-- An operation other than a producer write and `RESET` leaves the Channel Buffer alone. -/
theorem exec_cb {i : Instr} {s t : State} (h : exec i s = .next t)
    (hi : classOf i = .producer → ∃ a, i = .get a) (hr : i ≠ .reset) : t.cb = s.cb := by
  cases i with
  | reset => exact absurd rfl hr
  | set a v => obtain ⟨b, hb⟩ := hi rfl; cases hb
  | setAll v => obtain ⟨b, hb⟩ := hi rfl; cases hb
  | blendOne a x g b => obtain ⟨b, hb⟩ := hi rfl; cases hb
  | blendAll x g b => obtain ⟨b, hb⟩ := hi rfl; cases hb
  | get a =>
    obtain rfl := Host.Outcome.next.inj h
    cases ha : validAddress a
    · rw [atChannel_invalid ha, respond_cb]
    · rw [atChannel_valid ha, respond_cb]
  | timerExpired => exact (timerExpiredWith_keeps h).1
  | transmit => obtain ⟨-, rfl⟩ := transmitBuffer_next.mp h; rfl
  | tick => obtain rfl := Host.Outcome.next.inj h; exact tickWith_cb ..
  | txComplete => obtain rfl := Host.Outcome.next.inj h; exact txCompleted_cb s
  | abort => obtain rfl := Host.Outcome.next.inj h; exact abortTransmit_cb s
  | arm d => obtain rfl := Host.Outcome.next.inj h; rfl
  | disarm => obtain rfl := Host.Outcome.next.inj h; rfl
  | setRawLow => obtain rfl := Host.Outcome.next.inj h; rfl
  | setRawHigh => obtain rfl := Host.Outcome.next.inj h; rfl
  | setUart => obtain rfl := Host.Outcome.next.inj h; rfl

/-- An autonomous step leaves the Channel Buffer alone. -/
theorem runMove_cb_of_autonomous {m : Move} {s t : State} (h : runMove m s = .next t) (hm : autonomous m = true) :
    t.cb = s.cb := by
  cases m with
  | request c w => cases hm
  | advance n => obtain ⟨-, rfl⟩ := advanceWith_next h; rfl
  | expire => exact (timerExpiredWith_keeps (expireWith_next h).2).1
  | txSlot => obtain ⟨i, tn, hi, -, -, rfl⟩ := txSlot_next h; rfl
  | txDone => obtain ⟨-, rfl⟩ := txDone_next h; simp

/-- The Transmit Buffer stays, but for a frame start and for a `RESET`. -/
theorem runMove_tb {m : Move} {s t : State} (h : runMove m s = .next t) :
    t.tb = s.tb ∨
    (m.presents .tick = true ∧ s.fs = .idle ∧ s.tx = .idle ∧ t = startFrame Config.params s) ∨
    (m.presents .reset = true ∧ t = resetBlock s) := by
  cases hm : m.internal
  · rcases runMove_next h hm with ⟨n, -, -, rfl⟩ | ⟨-, -, h⟩ | ⟨i, tn, hi, -, -, -, rfl⟩ | ⟨-, -, rfl⟩ | ⟨mem, r, rfl, -⟩ |
      ⟨htick, rfl⟩ | ⟨-, h⟩ | ⟨-, rfl⟩ | hreset
    · exact .inl rfl
    · exact .inl (timerExpiredWith_keeps h).2.1
    · exact .inl rfl
    · exact .inl (by simp)
    · exact .inl rfl
    · rcases tickWith_cases Config.params s with ⟨hfs, htx, h⟩ | ⟨-, -, h⟩ | h
      · exact .inr (.inl ⟨htick, hfs, htx, h⟩)
      · exact .inl (by simp [h])
      · exact .inl (by rw [h])
    · exact .inl (timerExpiredWith_keeps h).2.1
    · exact .inl (txCompleted_tb s)
    · exact .inr (.inr hreset)
  · rcases runMove_internal h hm with ⟨d, rfl⟩ | rfl | rfl | rfl | rfl | ⟨-, rfl⟩ | rfl <;> exact .inl (by simp)

/-- A move counts at most one fault, but for a `RESET`. -/
theorem runMove_countsAtMostOne {m : Move} {s t : State} (h : runMove m s = .next t) :
    CountsAtMostOne s t ∨ (m.presents .reset = true ∧ t = resetBlock s) := by
  cases hm : m.internal
  · rcases runMove_next h hm with ⟨n, -, -, rfl⟩ | ⟨-, -, h⟩ | ⟨i, tn, hi, -, -, -, rfl⟩ | ⟨-, -, rfl⟩ | ⟨mem, r, rfl, -⟩ |
      ⟨-, rfl⟩ | ⟨-, h⟩ | ⟨-, rfl⟩ | hreset
    · exact .inl (.of_same rfl rfl)
    · exact .inl (countsAtMostOne_timerExpiredWith h)
    · exact .inl (.of_same rfl rfl)
    · exact .inl (countsAtMostOne_txCompleted (finishTransmit s))
    · exact .inl (.of_same rfl rfl)
    · exact .inl (countsAtMostOne_tickWith Config.params s)
    · exact .inl (countsAtMostOne_timerExpiredWith h)
    · exact .inl (countsAtMostOne_txCompleted s)
    · exact .inr hreset
  · rcases runMove_internal h hm with ⟨d, rfl⟩ | rfl | rfl | rfl | rfl | ⟨-, rfl⟩ | rfl <;>
      exact .inl (.of_same (by simp) (by simp))

/-- Only `ADVANCE` takes time. -/
theorem runMove_now {m : Move} {s t : State} (h : runMove m s = .next t) :
    (∃ n, 1 ≤ n ∧ m = .advance n ∧ t.now = s.now + n) ∨ t.now = s.now := by
  cases hm : m.internal
  · rcases runMove_next h hm with ⟨n, rfl, hn, rfl⟩ | ⟨-, -, h⟩ | ⟨i, tn, hi, -, -, -, rfl⟩ | ⟨-, -, rfl⟩ |
      ⟨mem, r, rfl, -⟩ | ⟨-, rfl⟩ | ⟨-, h⟩ | ⟨-, rfl⟩ | ⟨-, rfl⟩
    · simp only [advanceEnabled, Bool.and_eq_true, decide_eq_true_eq] at hn
      exact .inl ⟨n, hn.1, rfl, rfl⟩
    · exact .inr (timerExpiredWith_keeps h).2.2
    · exact .inr rfl
    · exact .inr (by simp)
    · exact .inr rfl
    · exact .inr (tickWith_now ..)
    · exact .inr (timerExpiredWith_keeps h).2.2
    · exact .inr (txCompleted_now s)
    · exact .inr (resetBlock_now s)
  · rcases runMove_internal h hm with ⟨d, rfl⟩ | rfl | rfl | rfl | rfl | ⟨-, rfl⟩ | rfl <;> exact .inr (by simp)

/-- A step of the machine runs the next move, or lets nothing happen, on the state with the trace taken forward, the
draws counted and the response port cleared. -/
theorem step_next_prepared {s t : State} (h : step s = .next t) :
    ∃ rest n, (∀ m ∈ rest, m ∈ s.trace) ∧
      (t = { s with trace := rest, draws := n, response := none } ∨
        ((nextMove s).internal = false ∨ nextMove s ∈ s.trace) ∧
          runMove (nextMove s) { s with trace := rest, draws := n, response := none } = .next t) := by
  rcases step_next h with ⟨rest, htr, hrun⟩ | ⟨htr, hint, hrun⟩ | ⟨htr, rfl⟩
  · have hmem : ∀ m ∈ nextMove s :: rest, m ∈ s.trace := fun m hm => htr ▸ hm
    exact ⟨rest, s.draws, fun m hm => hmem m (List.mem_cons_of_mem _ hm),
      .inr ⟨.inr (hmem _ List.mem_cons_self), hrun⟩⟩
  · exact ⟨s.trace, s.draws + 1, fun m hm => hm, .inr ⟨.inl hint, hrun⟩⟩
  · exact ⟨s.trace, s.draws + 1, fun m hm => hm, .inl rfl⟩

end Sys2Proof.Machine
end

section
/-! SUPPORT. The invariants of spec/10_state.md R37: every operation an agent's move runs keeps them, one lemma per
operation; then every move does. -/

namespace Sys2Proof.Safety

open Sys2Proof.Machine

section Operations
variable {s : State} (h : Consistent s)
include h

theorem consistent_passTime (n : Nat) : Consistent (passTime n s) :=
  h.of_same rfl rfl rfl rfl rfl rfl rfl rfl h.agentsOnly

theorem consistent_disarmTimer : Consistent (disarmTimer s) :=
  { h with idleDisarmed := fun _ => rfl, dataDisarmed := fun _ => rfl }

/-- A producer operation: a new canonical Channel Buffer and a response. -/
theorem consistent_producer {mem : Memory} (r : Response) (hmem : BufferIn 1 512 mem) :
    Consistent { s with cb := mem, response := some r } :=
  { h with channels := hmem }

theorem consistent_recover (c : FaultCause) : Consistent (recover c s) := by
  rw [recover_eq]
  exact { h with
    idleDisarmed := fun _ => rfl
    breakSilent := nofun
    markSilent := nofun
    dataDisarmed := nofun
    busyUart := nofun
    breakLow := nofun
    markUart := nofun
    faultsCounted := by simp [h.faultsCounted]
    startCodeZero := by simp [busy] }

theorem consistent_resetBlock : Consistent (resetBlock s) := by
  rw [resetBlock_eq]
  exact { h with
    channels := bufferIn_nil 1 512
    snapshot := by dsimp only; exact bufferIn_drawn s.draws
    idleDisarmed := fun _ => rfl
    breakSilent := nofun
    markSilent := nofun
    dataDisarmed := nofun
    busyUart := nofun
    breakLow := nofun
    markUart := nofun
    faultsCounted := rfl
    startCodeZero := by simp [busy] }

/-- The snapshot copy puts the start code at index 0 (R130, R52). -/
theorem consistent_startFrame (p : Params) (htx : s.tx = .idle) : Consistent (startFrame p s) :=
  { h with
    snapshot := bufferIn_restrict h.channels.1
    idleDisarmed := nofun
    breakSilent := fun _ => htx
    markSilent := nofun
    dataDisarmed := nofun
    busyUart := fun hb => by simp [busy_congr (startFrame_tx p s), busy_eq_false.mpr htx] at hb
    breakLow := fun _ => rfl
    markUart := nofun
    startCodeZero := fun _ => by simp [Memory.read_restrict] }

/-- The end of a break: the mark. -/
theorem consistent_endBreak (d : Nat) (hfs : s.fs = .brk) :
    Consistent (enterFrame .mark (armTimer d (selectUart (driveHigh s)))) :=
  { h with
    idleDisarmed := nofun
    breakSilent := nofun
    markSilent := fun _ => h.breakSilent hfs
    dataDisarmed := nofun
    busyUart := fun _ => rfl
    breakLow := nofun
    markUart := fun _ => rfl
    startCodeZero := fun _ => h.startCodeZero (.inl (by simp [hfs])) }

/-- The end of a mark: the transmission starts. -/
theorem consistent_endMark (hfs : s.fs = .mark) : Consistent (enterFrame .data (startTransmit (disarmTimer s))) :=
  { h with
    idleDisarmed := nofun
    breakSilent := nofun
    markSilent := nofun
    dataDisarmed := fun _ => rfl
    busyUart := fun _ => h.markUart hfs
    breakLow := nofun
    markUart := nofun
    startCodeZero := fun _ => h.startCodeZero (.inl (by simp [hfs])) }

/-- The end of the data: a spurious completion leaves the transmitter busy, and its buffer keeps the start code. -/
theorem consistent_endData (hfs : s.fs = .data) : Consistent (enterFrame .idle s) :=
  { h with
    idleDisarmed := fun _ => h.dataDisarmed hfs
    breakSilent := nofun
    markSilent := nofun
    dataDisarmed := nofun
    breakLow := nofun
    markUart := nofun
    startCodeZero := fun _ => h.startCodeZero (.inl (by simp [hfs])) }

/-- A slot goes out only with the transmitter busy, so neither in `Break` nor in `Mark` (I2). -/
theorem consistent_startSlot {i : Fin 514} (hi : i.val ≤ 512) (hb : busy s = true) :
    Consistent (startSlot i hi s) :=
  have hne : s.tx ≠ .idle := fun htx => by simp [busy_eq_false.mpr htx] at hb
  { h with
    breakSilent := fun hfs => absurd (h.breakSilent hfs) hne
    markSilent := fun hfs => absurd (h.markSilent hfs) hne
    busyUart := fun _ => h.busyUart hb
    startCodeZero := fun _ => h.startCodeZero (.inr hb) }

theorem consistent_finishTransmit : Consistent (finishTransmit s) :=
  { h with
    breakSilent := fun _ => rfl
    markSilent := fun _ => rfl
    busyUart := nofun
    startCodeZero := fun hb => h.startCodeZero (.inl (hb.resolve_right (by simp [busy]))) }

theorem consistent_tickWith (p : Params) : Consistent (tickWith p s) := by
  rcases tickWith_cases p s with ⟨-, htx, ht⟩ | ⟨-, -, ht⟩ | ht <;> rw [ht]
  · exact consistent_startFrame h p htx
  · exact consistent_recover h .stalledFrame
  · exact h

theorem consistent_timerExpiredWith {p : Params} {t : State} (ht : timerExpiredWith p s = .next t) : Consistent t := by
  rcases timerExpiredWith_next ht with ⟨hfs, rfl⟩ | ⟨hfs, -, rfl⟩ | ⟨-, rfl⟩
  · exact consistent_endBreak h p.tMabUs hfs
  · exact consistent_endMark h hfs
  · exact consistent_recover h .unexpectedSignal

theorem consistent_txCompleted : Consistent (txCompleted s) := by
  rcases txCompleted_cases s with ⟨hfs, ht⟩ | ⟨-, ht⟩ <;> rw [ht]
  · exact consistent_endData h hfs
  · exact consistent_recover h .unexpectedSignal

/-- Every move of an agent keeps the invariants, spurious signals and resets included. -/
theorem consistent_runMove {m : Move} {t : State} (hrun : runMove m s = .next t) (hm : m.internal = false) :
    Consistent t := by
  rcases runMove_next hrun hm with ⟨n, -, -, rfl⟩ | ⟨-, -, ht⟩ | ⟨i, tn, hi, -, htx, -, rfl⟩ | ⟨-, -, rfl⟩ |
    ⟨mem, r, rfl, hmem⟩ | ⟨-, rfl⟩ | ⟨-, ht⟩ | ⟨-, rfl⟩ | ⟨-, rfl⟩
  · exact consistent_passTime h n
  · exact consistent_timerExpiredWith (consistent_disarmTimer h) ht
  · exact consistent_startSlot h hi (busy_eq_true.mpr ⟨i, tn, htx⟩)
  · exact consistent_txCompleted (consistent_finishTransmit h)
  · exact consistent_producer h r (hmem h.channels)
  · exact consistent_tickWith h Config.params
  · exact consistent_timerExpiredWith h ht
  · exact consistent_txCompleted h
  · exact consistent_resetBlock h

end Operations

/-- Taking the trace forward, counting draws and clearing the response port keep the invariants. -/
theorem consistent_prepared {s : State} (h : Consistent s) {rest : List Move} (n : Nat)
    (hrest : ∀ m ∈ rest, m ∈ s.trace) : Consistent { s with trace := rest, draws := n, response := none } :=
  { h with agentsOnly := fun m hm => h.agentsOnly m (hrest m hm) }

theorem consistent_reset : Consistent State.reset where
  channels := bufferIn_nil 1 512
  snapshot := by simp only [State.reset]; exact bufferIn_drawn 0
  idleDisarmed := fun _ => rfl
  breakSilent := nofun
  markSilent := nofun
  dataDisarmed := nofun
  busyUart := nofun
  breakLow := nofun
  markUart := nofun
  faultsCounted := rfl
  startCodeZero := by simp [State.reset, busy]
  agentsOnly := nofun

/-- The step's own move is an agent's, since a consistent state's trace holds no other. -/
theorem step_next_agent {s t : State} (h : Consistent s) (hstep : step s = .next t) :
    ∃ u, (∃ rest n, u = { s with trace := rest, draws := n, response := none }) ∧ Consistent u ∧
      (t = u ∨ (nextMove s).internal = false ∧ runMove (nextMove s) u = .next t) := by
  obtain ⟨rest, n, hrest, hrun⟩ := step_next_prepared hstep
  refine ⟨_, ⟨rest, n, rfl⟩, consistent_prepared h n hrest, hrun.imp_right ?_⟩
  rintro ⟨hm, hrun⟩
  exact ⟨hm.elim id (h.agentsOnly _), hrun⟩

/-- Only a `RESET` takes the 0 from index 0 of the Transmit Buffer: a frame start writes it anew (R130, R134). -/
theorem runMove_startCode {m : Move} {s t : State} (h : runMove m s = .next t) (hz : readTb s 0 = 0)
    (hreset : m.presents .reset = false) : readTb t 0 = 0 := by
  rcases runMove_tb h with htb | ⟨-, -, -, rfl⟩ | ⟨hm, -⟩
  · rw [readTb, htb]; exact hz
  · simp [readTb, Memory.read_restrict]
  · simp [hreset] at hm

end Sys2Proof.Safety
end

section
/-! SUPPORT. The invariants of spec/10_state.md R38: without spurious signals and stalls (spec/00_scope.md R13) every
operation an agent's move runs keeps them. The consistency half is `consistent_runMove`; here stand the fault counter and
the two status bits. -/

namespace Sys2Proof.Safety

open Sys2Proof.Machine

/-- I8, I9 and I10 of R38, without the consistency. -/
structure PhaseMatches (s : State) : Prop where
  noFault : s.fc = 0
  dataBusy : s.fs = .data ↔ busy s = true
  phaseArmed : (s.fs = .brk ∨ s.fs = .mark) ↔ armed s = true

theorem faultFree_iff {s : State} : FaultFree s ↔ Consistent s ∧ PhaseMatches s :=
  ⟨fun ⟨hc, hfc, hb, ha⟩ => ⟨hc, hfc, hb, ha⟩, fun ⟨hc, hfc, hb, ha⟩ => ⟨hc, hfc, hb, ha⟩⟩

/-- The phase and the status bits depend on `FC`, `FS`, `TX` and `TMR` alone. -/
theorem PhaseMatches.of_same {s t : State} (h : PhaseMatches s) (hfc : t.fc = s.fc) (hfs : t.fs = s.fs)
    (htx : t.tx = s.tx) (htmr : t.tmr = s.tmr) : PhaseMatches t where
  noFault := hfc.trans h.noFault
  dataBusy := by rw [hfs, busy_congr htx]; exact h.dataBusy
  phaseArmed := by rw [hfs, armed_congr htmr]; exact h.phaseArmed

/-- In `Idle` nothing runs. -/
theorem phaseMatches_idle {s : State} (hfc : s.fc = 0) (hfs : s.fs = .idle) (htx : s.tx = .idle)
    (htmr : s.tmr = .disarmed) : PhaseMatches s where
  noFault := hfc
  dataBusy := by simp [hfs, busy, htx]
  phaseArmed := by simp [hfs, armed, htmr]

/-- In `Break` and `Mark` the countdown runs, and nothing is sent. -/
theorem phaseMatches_countdown {s : State} {d : Nat} (hfc : s.fc = 0) (hfs : s.fs = .brk ∨ s.fs = .mark)
    (htx : s.tx = .idle) (htmr : s.tmr = .armed d) : PhaseMatches s where
  noFault := hfc
  dataBusy := by rcases hfs with hfs | hfs <;> simp [hfs, busy, htx]
  phaseArmed := by simp [hfs, armed, htmr]

/-- In `Data` the transmitter runs, and no countdown. -/
theorem phaseMatches_data {s : State} {i : Fin 514} {tn : Nat} (hfc : s.fc = 0) (hfs : s.fs = .data)
    (htx : s.tx = .busy i tn) (htmr : s.tmr = .disarmed) : PhaseMatches s where
  noFault := hfc
  dataBusy := by simp [hfs, busy, htx]
  phaseArmed := by simp [hfs, armed, htmr]

section Operations
variable {s t : State} (h : FaultFree s)
include h

/-- The timer's genuine signal finds `Break` or `Mark`, for only there the timer is armed. -/
theorem phaseMatches_expire (he : expireEnabled s = true)
    (ht : timerExpiredWith Config.params (disarmTimer s) = .next t) : PhaseMatches t := by
  obtain ⟨d, htmr, -⟩ := expireEnabled_iff.mp he
  have hphase : s.fs = .brk ∨ s.fs = .mark := h.phaseArmed.mpr (armed_eq_true.mpr ⟨d, htmr⟩)
  rcases timerExpiredWith_next ht with ⟨hfs, rfl⟩ | ⟨hfs, htx, rfl⟩ | ⟨hfs, -⟩
  · exact phaseMatches_countdown h.noFault (.inr rfl) (h.consistent.breakSilent hfs) rfl
  · exact phaseMatches_data h.noFault rfl rfl rfl
  · rw [disarmTimer_fs] at hfs
    rcases hphase with hp | hp <;> simp [hp] at hfs

theorem phaseMatches_startSlot {i : Fin 514} {tn : Nat} (hi : i.val ≤ 512) (htx : s.tx = .busy i tn) :
    PhaseMatches (startSlot i hi s) :=
  have hfs : s.fs = .data := h.dataBusy.mpr (busy_eq_true.mpr ⟨i, tn, htx⟩)
  phaseMatches_data h.noFault hfs rfl (h.consistent.dataDisarmed hfs)

/-- The transmitter's genuine signal finds `Data`, for only there it is busy. -/
theorem phaseMatches_txDone (hd : doneEnabled s = true) : PhaseMatches (txCompleted (finishTransmit s)) := by
  obtain ⟨tn, htx, -⟩ := doneEnabled_iff.mp hd
  have hfs : s.fs = .data := h.dataBusy.mpr (busy_eq_true.mpr ⟨513, tn, htx⟩)
  rcases txCompleted_cases (finishTransmit s) with ⟨-, ht⟩ | ⟨hne, -⟩
  · rw [ht]
    exact phaseMatches_idle h.noFault rfl rfl (h.consistent.dataDisarmed hfs)
  · exact absurd hfs hne

/-- A `TICK` starts a frame in `Idle` and, where the watchdog does not fire, does nothing outside it. -/
theorem phaseMatches_tick (hstall : s.fs ≠ .idle → stalled Config.params s = false) :
    PhaseMatches (tickWith Config.params s) := by
  rcases tickWith_cases Config.params s with ⟨-, htx, ht⟩ | ⟨hne, hst, -⟩ | ht
  · rw [ht]
    exact phaseMatches_countdown h.noFault (.inl rfl) htx rfl
  · simp [hstall hne] at hst
  · rw [ht]
    exact (faultFree_iff.mp h).2

/-- Every move of an agent but a spurious signal and a firing watchdog keeps the invariants of R38. -/
theorem faultFree_runMove {m : Move} (hrun : runMove m s = .next t) (hm : m.internal = false)
    (hsp : m.spurious = false) (hstall : m.presents .tick = true → s.fs ≠ .idle → stalled Config.params s = false) :
    FaultFree t := by
  obtain ⟨hnt, hnc⟩ : m.presents .timerExpired = false ∧ m.presents .txComplete = false := Bool.or_eq_false_iff.mp hsp
  have hs : PhaseMatches s := (faultFree_iff.mp h).2
  refine faultFree_iff.mpr ⟨consistent_runMove h.consistent hrun hm, ?_⟩
  rcases runMove_next hrun hm with ⟨n, -, -, rfl⟩ | ⟨-, he, ht⟩ | ⟨i, tn, hi, -, htx, -, rfl⟩ | ⟨-, hd, rfl⟩ |
    ⟨mem, r, rfl, -⟩ | ⟨htick, rfl⟩ | ⟨hte, -⟩ | ⟨htc, -⟩ | ⟨-, rfl⟩
  · exact hs.of_same rfl rfl rfl rfl
  · exact phaseMatches_expire h he ht
  · exact phaseMatches_startSlot h hi htx
  · exact phaseMatches_txDone h hd
  · exact hs.of_same rfl rfl rfl rfl
  · exact phaseMatches_tick h (hstall htick)
  · simp [hnt] at hte
  · simp [hnc] at htc
  · exact phaseMatches_idle (resetBlock_fc s) (resetBlock_fs s) (resetBlock_tx s) (resetBlock_tmr s)

end Operations

theorem faultFree_reset : FaultFree State.reset :=
  faultFree_iff.mpr ⟨consistent_reset, phaseMatches_idle rfl rfl rfl rfl⟩

/-- The empty wire log of the reset state is in order and well timed. -/
theorem wireTimed_reset (p : Params) : WireTimed p State.reset where
  inOrder :=
    { consistent := consistent_reset
      ordered := trivial
      begins := beginsAtRest_nil
      slots := slotsAfterMark_nil
      noRawHigh := nofun
      inBreak := nofun
      inMark := nofun
      beforeFirstSlot := nofun
      afterSlot := nofun }
  timed := trivial
  breakCountdown := nofun
  markCountdown := nofun
  markOver := nofun

end Sys2Proof.Safety
end

section
/-! SUPPORT. The ghost logs (spec/10_state.md R20): `LogBlind` says of an update of the state that it reads neither log and
only appends to `WIRE`. The class is closed under composition and under branches that do not read a log, and every
operation of the block is built from such updates. -/

namespace Sys2Proof.Machine

/-- The state with other ghost logs. -/
def withLogs (w : List WireEntry) (l : List (FaultCause × FrameState)) (s : State) : State :=
  { s with wire := w, flog := l }

/-- The update reads no ghost log: with other logs it leads to the same state but for the logs, and appends the same
entries to `WIRE`. -/
def LogBlind (f : State → State) : Prop :=
  ∀ s w l, ∃ added l', (f s).wire = s.wire ++ added ∧ f (withLogs w l s) = withLogs (w ++ added) l' (f s)

/-- How the outcome `o'`, from the wire log `w`, answers the outcome `o` from the state `s`: the same stop, or the same
next state but for the logs, with the same entries appended to `WIRE`. -/
def FollowsLogs (s : State) (w : List WireEntry) (o o' : Host.Outcome State Fault Refusal) : Prop :=
  match o with
  | .next t => ∃ added l', t.wire = s.wire ++ added ∧ o' = .next (withLogs (w ++ added) l' t)
  | .fault r => o' = .fault r
  | .refused r => o' = .refused r

/-- An operation that can stop reads no ghost log. -/
def OutcomeLogBlind (F : State → Host.Outcome State Fault Refusal) : Prop :=
  ∀ s w l, FollowsLogs s w (F s) (F (withLogs w l s))

/-! ### Closure -/

theorem LogBlind.comp {f g : State → State} (hg : LogBlind g) (hf : LogBlind f) : LogBlind (fun s => g (f s)) := by
  intro s w l
  obtain ⟨a, l₁, hwf, hf⟩ := hf s w l
  obtain ⟨b, l₂, hwg, hg⟩ := hg (f s) (w ++ a) l₁
  exact ⟨a ++ b, l₂, by rw [hwg, hwf, List.append_assoc], by simp only [hf, hg, List.append_assoc]⟩

theorem LogBlind.ite {c : State → Prop} [DecidablePred c] {f g : State → State} (hf : LogBlind f) (hg : LogBlind g)
    (hc : ∀ s w l, c (withLogs w l s) ↔ c s) : LogBlind (fun s => if c s then f s else g s) := by
  intro s w l
  by_cases h : c s
  · simpa only [if_pos h, if_pos ((hc s w l).mpr h)] using hf s w l
  · simpa only [if_neg h, if_neg (mt (hc s w l).mp h)] using hg s w l

theorem LogBlind.next {f : State → State} (hf : LogBlind f) : OutcomeLogBlind (fun s => .next (f s)) := by
  intro s w l
  obtain ⟨a, l', hw, hf⟩ := hf s w l
  exact ⟨a, l', hw, congrArg _ hf⟩

theorem outcomeLogBlind_refused (r : Refusal) : OutcomeLogBlind (fun _ => .refused r) := fun _ _ _ => rfl

theorem OutcomeLogBlind.comp {F : State → Host.Outcome State Fault Refusal} {f : State → State}
    (hF : OutcomeLogBlind F) (hf : LogBlind f) : OutcomeLogBlind (fun s => F (f s)) := by
  intro s w l
  obtain ⟨a, l₁, hwf, hf⟩ := hf s w l
  have h := hF (f s) (w ++ a) l₁
  show FollowsLogs s w (F (f s)) (F (f (withLogs w l s)))
  rw [hf]
  cases hr : F (f s) with
  | next t =>
    rw [hr] at h
    obtain ⟨b, l₂, hwt, ht⟩ := h
    exact ⟨a ++ b, l₂, by rw [hwt, hwf, List.append_assoc], by rw [ht, List.append_assoc]⟩
  | fault r => cases r
  | refused r => rw [hr] at h; exact h

theorem OutcomeLogBlind.ite {c : State → Prop} [DecidablePred c] {F G : State → Host.Outcome State Fault Refusal}
    (hF : OutcomeLogBlind F) (hG : OutcomeLogBlind G) (hc : ∀ s w l, c (withLogs w l s) ↔ c s) :
    OutcomeLogBlind (fun s => if c s then F s else G s) := by
  intro s w l
  by_cases h : c s
  · simpa only [if_pos h, if_pos ((hc s w l).mpr h)] using hF s w l
  · simpa only [if_neg h, if_neg (mt (hc s w l).mp h)] using hG s w l

/-! ### The named operations -/

/-- An update that changes no log and does not read one. -/
theorem logBlind_of_silent {f : State → State} (hw : ∀ s, (f s).wire = s.wire)
    (hf : ∀ s w l, f (withLogs w l s) = withLogs w l (f s)) : LogBlind f :=
  fun s w l => ⟨[], l, by simp [hw], by simp [hf]⟩

/-- An update that appends one entry, computed without the logs. -/
theorem logBlind_of_emits {f : State → State} (e : State → WireEntry) (hw : ∀ s, (f s).wire = s.wire ++ [e s])
    (hf : ∀ s w l, f (withLogs w l s) = withLogs (w ++ [e s]) l (f s)) : LogBlind f :=
  fun s w l => ⟨[e s], l, hw s, hf s w l⟩

theorem logBlind_id : LogBlind (fun s => s) := logBlind_of_silent (fun _ => rfl) fun _ _ _ => rfl

theorem logBlind_enterFrame (f : FrameState) : LogBlind (enterFrame f) :=
  logBlind_of_silent (fun _ => rfl) fun _ _ _ => rfl

theorem logBlind_armTimer (d : Nat) : LogBlind (armTimer d) := logBlind_of_silent (fun _ => rfl) fun _ _ _ => rfl

theorem logBlind_disarmTimer : LogBlind disarmTimer := logBlind_of_silent (fun _ => rfl) fun _ _ _ => rfl

theorem logBlind_startTransmit : LogBlind startTransmit := logBlind_of_silent (fun _ => rfl) fun _ _ _ => rfl

theorem logBlind_idleTransmitter : LogBlind idleTransmitter := logBlind_of_silent (fun _ => rfl) fun _ _ _ => rfl

theorem logBlind_driveLow : LogBlind driveLow := logBlind_of_emits (.low ·.now) (fun _ => rfl) fun _ _ _ => rfl

theorem logBlind_driveHigh : LogBlind driveHigh := logBlind_of_emits (.high ·.now) (fun _ => rfl) fun _ _ _ => rfl

theorem logBlind_selectUart : LogBlind selectUart := logBlind_of_emits (.uartIdle ·.now) (fun _ => rfl) fun _ _ _ => rfl

theorem logBlind_finishTransmit : LogBlind finishTransmit :=
  logBlind_of_emits (.done ·.now) (fun _ => rfl) fun _ _ _ => rfl

theorem logBlind_emitAbort : LogBlind emitAbort :=
  .ite (logBlind_of_emits (.abort ·.now) (fun _ => rfl) fun _ _ _ => rfl) logBlind_id fun _ _ _ => .rfl

theorem logBlind_abortTransmit : LogBlind abortTransmit := logBlind_idleTransmitter.comp logBlind_emitAbort

/-- The fault log is written, never read. -/
theorem logBlind_logFault (c : FaultCause) : LogBlind (logFault c) :=
  fun s w l => ⟨[], l ++ [(c, s.fs)], by simp, by simp [logFault, withLogs]⟩

theorem logBlind_countFault : LogBlind countFault := logBlind_of_silent (fun _ => rfl) fun _ _ _ => rfl

theorem logBlind_recover (c : FaultCause) : LogBlind (recover c) :=
  logBlind_countFault.comp <| (logBlind_enterFrame .idle).comp <| logBlind_abortTransmit.comp <|
    logBlind_disarmTimer.comp (logBlind_logFault c)

theorem logBlind_passTime (n : Nat) : LogBlind (passTime n) := logBlind_of_silent (fun _ => rfl) fun _ _ _ => rfl

theorem logBlind_resetRegisters : LogBlind resetRegisters :=
  fun s w _ => ⟨[], [], by simp [resetRegisters], by simp [resetRegisters, withLogs]⟩

theorem logBlind_resetBlock : LogBlind resetBlock :=
  logBlind_selectUart.comp <| logBlind_resetRegisters.comp logBlind_emitAbort

theorem logBlind_startFrame (p : Params) : LogBlind (startFrame p) :=
  logBlind_of_emits (.low ·.now) (fun _ => rfl) fun _ _ _ => rfl

theorem logBlind_atChannel {a : Int} {k : Nat → State → State} (hk : ∀ n, LogBlind (k n)) :
    LogBlind (fun s => atChannel a s fun n => k n s) :=
  .ite (c := fun _ => validAddress a = true) (hk a.toNat) (logBlind_of_silent (fun _ => rfl) fun _ _ _ => rfl)
    fun _ _ _ => .rfl

/-! ### The signals and `TICK`, as branches -/

theorem txCompleted_eq_ite (s : State) :
    txCompleted s = if s.fs = .data then enterFrame .idle s else recover .unexpectedSignal s := by
  unfold txCompleted
  cases s.fs <;> simp

theorem logBlind_txCompleted : LogBlind txCompleted := by
  rw [funext txCompleted_eq_ite]
  exact .ite (logBlind_enterFrame .idle) (logBlind_recover _) fun _ _ _ => .rfl

theorem tickWith_eq_ite (p : Params) (s : State) :
    tickWith p s = if s.fs = .idle then if busy s = true then s else startFrame p s
      else if stalled p s = true then recover .stalledFrame s else s := by
  unfold tickWith
  cases s.fs <;> simp

theorem logBlind_tickWith (p : Params) : LogBlind (tickWith p) := by
  rw [funext (tickWith_eq_ite p)]
  exact .ite (.ite logBlind_id (logBlind_startFrame p) fun _ _ _ => .rfl)
    (.ite (logBlind_recover _) logBlind_id fun _ _ _ => .rfl) fun _ _ _ => .rfl

theorem outcomeLogBlind_transmitBuffer : OutcomeLogBlind transmitBuffer :=
  .ite (outcomeLogBlind_refused _) logBlind_startTransmit.next fun _ _ _ => .rfl

theorem timerExpiredWith_eq_ite (p : Params) (s : State) :
    timerExpiredWith p s =
      if s.fs = .brk then .next (enterFrame .mark (armTimer p.tMabUs (selectUart (driveHigh s))))
      else if s.fs = .mark then
        if busy s = true then .refused .transmitWhileBusy
        else .next (enterFrame .data (startTransmit (disarmTimer s)))
      else .next (recover .unexpectedSignal s) := by
  unfold timerExpiredWith
  cases s.fs <;> simp
  unfold transmitBuffer
  rw [busy_congr (disarmTimer_tx s)]
  split <;> rfl

theorem outcomeLogBlind_timerExpiredWith (p : Params) : OutcomeLogBlind (timerExpiredWith p) := by
  rw [funext (timerExpiredWith_eq_ite p)]
  have hbreak : LogBlind fun s => enterFrame .mark (armTimer p.tMabUs (selectUart (driveHigh s))) :=
    (logBlind_enterFrame .mark).comp <| (logBlind_armTimer _).comp <| logBlind_selectUart.comp logBlind_driveHigh
  have hmark : LogBlind fun s => enterFrame .data (startTransmit (disarmTimer s)) :=
    (logBlind_enterFrame .data).comp <| logBlind_startTransmit.comp logBlind_disarmTimer
  exact .ite hbreak.next
    (.ite (.ite (outcomeLogBlind_refused _) hmark.next fun _ _ _ => .rfl) (logBlind_recover _).next fun _ _ _ => .rfl)
    fun _ _ _ => .rfl

/-! ### The moves -/

theorem outcomeLogBlind_exec (i : Instr) : OutcomeLogBlind (exec i) := by
  have hwrite : ∀ (v : Byte) (n : Nat), LogBlind fun s => respond .ok (writeCb n v s) :=
    fun v n => logBlind_of_silent (fun _ => rfl) fun _ _ _ => rfl
  have hfill : ∀ v : Byte, LogBlind fun s => respond .ok (fillCb v s) :=
    fun v => logBlind_of_silent (fun _ => rfl) fun _ _ _ => rfl
  have hread : ∀ n, LogBlind fun s => respond (.value (readCb s n)) s :=
    fun n => logBlind_of_silent (fun _ => rfl) fun _ _ _ => rfl
  cases i with
  | reset => exact logBlind_resetBlock.next
  | set a v => exact (logBlind_atChannel (hwrite (clamp8 v))).next
  | get a => exact (logBlind_atChannel hread).next
  | setAll v => exact (hfill (clamp8 v)).next
  | blendOne a r g b => exact (logBlind_atChannel (hwrite (blend r g b))).next
  | blendAll r g b => exact (hfill (blend r g b)).next
  | tick => exact (logBlind_tickWith _).next
  | timerExpired => exact outcomeLogBlind_timerExpiredWith _
  | txComplete => exact logBlind_txCompleted.next
  | arm d => exact (logBlind_armTimer d).next
  | disarm => exact logBlind_disarmTimer.next
  | setRawLow => exact logBlind_driveLow.next
  | setRawHigh => exact logBlind_driveHigh.next
  | setUart => exact logBlind_selectUart.next
  | transmit => exact outcomeLogBlind_transmitBuffer
  | abort => exact logBlind_abortTransmit.next

theorem outcomeLogBlind_runRequest (c : Context) (w : RequestWord) : OutcomeLogBlind (runRequest c w) := by
  unfold runRequest
  cases decode w with
  | invalid opc => exact outcomeLogBlind_refused _
  | op i =>
    exact .ite (c := fun _ => mayRequest c i = true) (outcomeLogBlind_exec i) (outcomeLogBlind_refused _)
      fun _ _ _ => .rfl

theorem txSlot_of_enabled {s : State} {i : Fin 514} {tn : Nat} (htx : s.tx = .busy i tn) (hi : i.val ≤ 512)
    (hn : tn ≤ s.now) : txSlot s = .next (startSlot i hi s) := by
  simp [txSlot, htx, hi, hn]

theorem txSlot_of_not_enabled {s : State} (h : slotEnabled s = false) : txSlot s = .refused .notEnabled := by
  cases htx : s.tx with
  | idle => simp [txSlot, htx]
  | busy i tn =>
    by_cases hi : i.val ≤ 512
    · have hn : ¬ tn ≤ s.now := fun hn => by simp [slotEnabled_iff.mpr ⟨i, tn, htx, hi, hn⟩] at h
      simp [txSlot, htx, hi, hn]
    · simp [txSlot, htx, hi]

/-- A slot logs the byte it reads from `TB`. -/
theorem outcomeLogBlind_txSlot : OutcomeLogBlind txSlot := by
  intro s w l
  cases h : slotEnabled s
  · rw [txSlot_of_not_enabled h, txSlot_of_not_enabled (s := withLogs w l s) h]
    rfl
  · obtain ⟨i, tn, htx, hi, hn⟩ := slotEnabled_iff.mp h
    rw [txSlot_of_enabled htx hi hn, txSlot_of_enabled (s := withLogs w l s) htx hi hn]
    exact ⟨[.slot s.now i.val (s.tb.read i.val)], l, rfl, rfl⟩

/-- Every move reads neither log. -/
theorem outcomeLogBlind_runMove (m : Move) : OutcomeLogBlind (runMove m) := by
  cases m with
  | request c w => exact outcomeLogBlind_runRequest c w
  | advance n =>
    exact .ite (logBlind_passTime n).next (outcomeLogBlind_refused _) fun _ _ _ => .rfl
  | expire =>
    exact .ite ((outcomeLogBlind_timerExpiredWith _).comp logBlind_disarmTimer) (outcomeLogBlind_refused _)
      fun _ _ _ => .rfl
  | txSlot => exact outcomeLogBlind_txSlot
  | txDone =>
    exact .ite (logBlind_txCompleted.comp logBlind_finishTransmit).next (outcomeLogBlind_refused _) fun _ _ _ => .rfl

end Sys2Proof.Machine
end

section
/-! SUPPORT. The claims about the state (spec/10_state.md): the invariants every step keeps, who writes which buffer, the
counters and the ghost logs, the values after reset. -/

namespace Sys2Proof.Machine

open Sys2Proof.Safety

/-- Settles O45 (R37, I7): the step's move runs on a consistent state and keeps the invariants; index 0 of the Transmit
Buffer is written by a frame start, with the start code, and by a `RESET` alone. -/
theorem stepKeepsConsistent : Obligations.StepKeepsConsistent := by
  intro s t hs hstep
  obtain ⟨u, ⟨rest, n, hu⟩, hcu, rfl | ⟨hm, hrun⟩⟩ := step_next_agent hs hstep
  · exact ⟨hcu, fun hz _ => by rw [hu]; exact hz⟩
  · have htb : readTb u 0 = readTb s 0 := by rw [hu]; rfl
    exact ⟨consistent_runMove hcu hrun hm, fun hz hr => runMove_startCode hrun (htb.trans hz) hr⟩

/-- Settles O48 (R38, R13): in a fault-free state each genuine signal finds the phase that expects it, and `TICK` does not
find a stalled frame. -/
theorem stepKeepsFaultFree : Obligations.StepKeepsFaultFree := by
  intro s t hs hsp hstall hstep
  obtain ⟨u, ⟨rest, n, hu⟩, hcu, hrun⟩ := step_next_agent hs.consistent hstep
  have hfu : FaultFree u :=
    faultFree_iff.mpr ⟨hcu, by rw [hu]; exact (faultFree_iff.mp hs).2.of_same rfl rfl rfl rfl⟩
  rcases hrun with rfl | ⟨hm, hrun⟩
  · exact hfu
  · exact faultFree_runMove hfu hrun hm hsp (by rw [hu]; exact hstall)

/-- Settles O18 (R21, R60): an autonomous step leaves the Channel Buffer alone, and so does every operation but the
producer writes and `RESET`. -/
theorem channelBufferWrittenOnlyByProducer : Obligations.ChannelBufferWrittenOnlyByProducer := by
  intro m s t hrun hne
  cases ha : autonomous m
  · cases m with
    | request c w =>
      obtain ⟨i, hw, -, hexec⟩ := runRequest_next hrun
      refine ⟨c, w, i, rfl, hw, ?_⟩
      by_contra hno
      obtain ⟨hp, hr⟩ := not_or.mp hno
      exact hne (exec_cb hexec (fun hi => by simpa [hi] using hp) hr)
    | advance n => cases ha
    | expire => cases ha
    | txSlot => cases ha
    | txDone => cases ha
  · exact absurd (runMove_cb_of_autonomous hrun ha) hne

/-- Settles O19 (R22, R60): of all moves only a frame start and a `RESET` write the Transmit Buffer. -/
theorem transmitBufferWrittenOnlyAtFrameStart : Obligations.TransmitBufferWrittenOnlyAtFrameStart := by
  intro m s t hrun hne
  rcases runMove_tb hrun with htb | ⟨htick, hfs, htx, rfl⟩ | ⟨hreset, -⟩
  · exact absurd htb hne
  · exact .inl ⟨htick, hfs, htx, startFrame_fs ..⟩
  · exact .inr hreset

/-- Settles O20 (R22, I4 of R37): a frame start needs an idle transmitter, and a `RESET` leaves one. -/
theorem transmitBufferStableInFlight : Obligations.TransmitBufferStableInFlight := by
  intro s t hstep hbs hbt
  obtain ⟨rest, n, -, rfl | ⟨-, hrun⟩⟩ := step_next_prepared hstep
  · rfl
  · rcases runMove_tb hrun with htb | ⟨-, -, htx, -⟩ | ⟨-, rfl⟩
    · exact htb
    · have hidle : busy s = false := busy_eq_false.mpr htx
      simp [hidle] at hbs
    · simp [busy] at hbt

/-- Settles O53 (R20): every operation is built from updates that read neither log. -/
theorem ghostLogsNeverInfluence : Obligations.GhostLogsNeverInfluence := by
  intro m s w l
  have h := outcomeLogBlind_runMove m s w l
  cases hr : runMove m s <;> rw [hr] at h <;> exact h

/-- Settles O54 (R24, R29, R30, R37 (I6)): the time and the fault records by `runMove_next`'s cases, the wire log
because every operation only appends to it (`outcomeLogBlind_runMove`). -/
theorem countersMoveForward : Obligations.CountersMoveForward := by
  intro m s t hrun
  refine ⟨?_, runMove_now hrun, ?_⟩
  · rcases runMove_countsAtMostOne hrun with (hsame | hone) | ⟨hm, rfl⟩
    · exact .inl hsame
    · exact .inr (.inl hone)
    · exact .inr (.inr ⟨hm, resetBlock_fc s, resetBlock_flog s⟩)
  · have h := outcomeLogBlind_runMove m s s.wire s.flog
    rw [hrun] at h
    obtain ⟨added, -, hwire, -⟩ := h
    exact ⟨added, hwire⟩

/-- Settles O31 (R231, R34): the values stand in `State.reset`. -/
theorem resetStateValues : Obligations.ResetStateValues :=
  ⟨Memory.read_nil, rfl, rfl, rfl, rfl, rfl, rfl, rfl, rfl, rfl⟩

/-- Settles O44 (R34, R37, R38): the reset state is idle, its buffers are canonical and its logs empty. -/
theorem resetStateKeepsInvariants : Obligations.ResetStateKeepsInvariants :=
  ⟨consistent_reset, wireTimed_reset Config.params, faultFree_reset⟩

/-- The timer's genuine signal leaves the timer armed only where it ends a break (R131, R162). -/
theorem expireWith_armed {p : Params} {s t : State} (h : expireWith p s = .next t) (ha : armed t = true) :
    s.fs = .brk ∧ t.fs = .mark := by
  rcases timerExpiredWith_next (expireWith_next h).2 with ⟨hfs, rfl⟩ | ⟨-, -, rfl⟩ | ⟨-, rfl⟩
  · exact ⟨hfs, rfl⟩
  · cases ha
  · simp [armed] at ha

/-- Completion leaves the transmitter idle, a frame in progress or not (R186). -/
theorem txDone_idle {s t : State} (h : txDone s = .next t) : busy t = false := by
  obtain ⟨-, rfl⟩ := txDone_next h
  rcases txCompleted_cases (finishTransmit s) with ⟨-, ht⟩ | ⟨-, ht⟩ <;> rw [ht]
  · rfl
  · exact busy_eq_false.mpr (recover_tx ..)

/-- Settles O59 (R33, R206), command by command and step by step. -/
theorem statusBitsFollowCommands : Obligations.StatusBitsFollowCommands := by
  refine ⟨?_, ?_, ?_, ?_, ?_, fun s t => txDone_idle, fun s t => expireWith_armed⟩
  · intro d s t h
    obtain rfl := Host.Outcome.next.inj h
    exact ⟨rfl, rfl⟩
  · intro s t h
    obtain rfl := Host.Outcome.next.inj h
    exact ⟨rfl, rfl⟩
  · intro s t h
    obtain ⟨-, rfl⟩ := transmitBuffer_next.mp h
    exact ⟨rfl, rfl⟩
  · intro s t h
    obtain rfl := Host.Outcome.next.inj h
    exact ⟨busy_eq_false.mpr (abortTransmit_tx s), armed_congr (abortTransmit_tmr s)⟩
  · intro s t h
    obtain rfl := Host.Outcome.next.inj h
    exact ⟨busy_eq_false.mpr (resetBlock_tx s), armed_eq_false.mpr (resetBlock_tmr s)⟩

end Sys2Proof.Machine
end

section
/-! SUPPORT. The order of the wire log (spec/20_memory.md R62, spec/43_line_driver.md R185, R186). `WireOrdered` falls into
the invariants, the log's own order and the way the log ends in each phase; what appends to the log keeps its order, one
lemma per entry, every operation an agent's move runs keeps all three, and then every move does. -/

namespace Sys2Proof.Safety

open Sys2Proof.Machine

/-- The log's own order, whatever the phase. -/
structure LogInOrder (l : List WireEntry) : Prop where
  ordered : adjacent mayFollow l
  begins : beginsAtRest l
  slots : slotsAfterMark l
  noRawHigh : ∀ a, l.getLast? ≠ some (.high a)

/-- The log ends as the phase of the frame and the transmitter imply. -/
structure EndsAsPhase (s : State) : Prop where
  inBreak : s.fs = .brk → ∃ a, s.wire.getLast? = some (.low a) ∧ a ≤ s.now
  inMark : s.fs = .mark → ∃ a, endsInMark s.wire a ∧ a ≤ s.now
  beforeFirstSlot : ∀ tn, s.tx = .busy 0 tn → ∃ a, endsInMark s.wire a ∧ a ≤ s.now
  afterSlot : ∀ i tn, s.tx = .busy i tn → i.val ≠ 0 →
    ∃ a b, s.wire.getLast? = some (.slot a (i.val - 1) b) ∧ a + Config.tSlotUs ≤ tn

theorem wireOrdered_iff {s : State} : WireOrdered s ↔ Consistent s ∧ LogInOrder s.wire ∧ EndsAsPhase s :=
  ⟨fun ⟨hc, h1, h2, h3, h4, h5, h6, h7, h8⟩ => ⟨hc, ⟨h1, h2, h3, h4⟩, ⟨h5, h6, h7, h8⟩⟩,
    fun ⟨hc, ⟨h1, h2, h3, h4⟩, ⟨h5, h6, h7, h8⟩⟩ => ⟨hc, h1, h2, h3, h4, h5, h6, h7, h8⟩⟩

/-! ### Entries that keep the log in order -/

section Entries
variable {l : List WireEntry} (h : LogInOrder l)
include h

/-- What appending one entry asks for. -/
theorem logInOrder_append {x : WireEntry} (hbegin : l = [] → (∃ a, x = .low a) ∨ ∃ a, x = .uartIdle a)
    (hfollow : ∀ y, l.getLast? = some y → mayFollow y x) (hslot : ∀ t b, x = .slot t 0 b → ∃ a, endsInMark l a)
    (hhigh : ∀ a, x ≠ .high a) : LogInOrder (l ++ [x]) where
  ordered := (adjacent_append_one l x).mpr ⟨h.ordered, hfollow⟩
  begins := (beginsAtRest_append_one l x).mpr ⟨h.begins, hbegin⟩
  slots := (slotsAfterMark_append_one l x).mpr ⟨h.slots, hslot⟩
  noRawHigh := by simpa using hhigh

/-- A break, a switch to the UART and an abort may follow whatever a log in order ends in. -/
theorem LogInOrder.mayFollow_last {x : WireEntry}
    (hx : (∃ t, x = .low t) ∨ (∃ t, x = .uartIdle t) ∨ ∃ t, x = .abort t) :
    ∀ y, l.getLast? = some y → mayFollow y x := by
  intro y hy
  cases y with
  | high a => exact absurd hy (h.noRawHigh a)
  | _ => rcases hx with ⟨t, rfl⟩ | ⟨t, rfl⟩ | ⟨t, rfl⟩ <;> trivial

theorem logInOrder_low (t : Nat) : LogInOrder (l ++ [.low t]) :=
  logInOrder_append h (fun _ => .inl ⟨t, rfl⟩) (h.mayFollow_last (.inl ⟨t, rfl⟩)) nofun nofun

theorem logInOrder_uartIdle (t : Nat) : LogInOrder (l ++ [.uartIdle t]) :=
  logInOrder_append h (fun _ => .inr ⟨t, rfl⟩) (h.mayFollow_last (.inr (.inl ⟨t, rfl⟩))) nofun nofun

theorem logInOrder_abort (t : Nat) (hne : l ≠ []) : LogInOrder (l ++ [.abort t]) :=
  logInOrder_append h (fun hl => absurd hl hne) (h.mayFollow_last (.inr (.inr ⟨t, rfl⟩))) nofun nofun

/-- The end of a break: the line goes high and to the UART at once (R181, R182). -/
theorem logInOrder_mark {a t : Nat} (hlow : l.getLast? = some (.low a)) (hat : a ≤ t) :
    LogInOrder (l ++ [.high t, .uartIdle t]) := by
  have hne : l ≠ [] := by rintro rfl; cases hlow
  have hhigh : adjacent mayFollow (l ++ [.high t]) :=
    (adjacent_append_one l _).mpr ⟨h.ordered, fun y hy => by
      obtain rfl : WireEntry.low a = y := Option.some.inj (hlow.symm.trans hy)
      exact hat⟩
  rw [List.append_cons]
  refine ⟨(adjacent_append_one _ _).mpr ⟨hhigh, by simp [mayFollow]⟩, ?_, ?_, by simp⟩
  · simp only [beginsAtRest_append_one]
    exact ⟨⟨h.begins, fun hl => absurd hl hne⟩, fun _ => .inr ⟨t, rfl⟩⟩
  · simp only [slotsAfterMark_append_one]
    exact ⟨⟨h.slots, nofun⟩, nofun⟩

/-- Slot 0 directly after a break and its mark. -/
theorem logInOrder_firstSlot {a t : Nat} (b : Byte) (hmark : endsInMark l a) (hat : a ≤ t) :
    LogInOrder (l ++ [.slot t 0 b]) := by
  have hlast := getLast?_of_endsInMark hmark
  refine logInOrder_append h (fun hl => by simp [hl] at hlast) (fun y hy => ?_) (fun _ _ _ => ⟨a, hmark⟩) nofun
  obtain rfl : WireEntry.uartIdle a = y := Option.some.inj (hlast.symm.trans hy)
  exact ⟨rfl, hat⟩

/-- A later slot directly after the slot before it. -/
theorem logInOrder_nextSlot {a t i : Nat} {c : Byte} (b : Byte) (hlast : l.getLast? = some (.slot a i c))
    (hat : a + Config.tSlotUs ≤ t) : LogInOrder (l ++ [.slot t (i + 1) b]) := by
  refine logInOrder_append h (fun hl => by simp [hl] at hlast) (fun y hy => ?_) (by simp) nofun
  obtain rfl : WireEntry.slot a i c = y := Option.some.inj (hlast.symm.trans hy)
  exact ⟨rfl, hat⟩

/-- Completion after slot 512. -/
theorem logInOrder_done {a t : Nat} {c : Byte} (hlast : l.getLast? = some (.slot a 512 c))
    (hat : a + Config.tSlotUs ≤ t) : LogInOrder (l ++ [.done t]) := by
  refine logInOrder_append h (fun hl => by simp [hl] at hlast) (fun y hy => ?_) nofun nofun
  obtain rfl : WireEntry.slot a 512 c = y := Option.some.inj (hlast.symm.trans hy)
  exact ⟨rfl, hat⟩

end Entries

/-! ### The end of the log in each phase -/

/-- The end of the log in a phase depends on `WIRE`, `FS`, `TX` and the time, which may go forward. -/
theorem EndsAsPhase.of_same {s t : State} (h : EndsAsPhase s) (hwire : t.wire = s.wire) (hfs : t.fs = s.fs)
    (htx : t.tx = s.tx) (hnow : s.now ≤ t.now) : EndsAsPhase t where
  inBreak hb := by
    obtain ⟨a, hlast, ha⟩ := h.inBreak (hfs ▸ hb)
    exact ⟨a, hwire ▸ hlast, ha.trans hnow⟩
  inMark hm := by
    obtain ⟨a, hlast, ha⟩ := h.inMark (hfs ▸ hm)
    exact ⟨a, hwire ▸ hlast, ha.trans hnow⟩
  beforeFirstSlot tn hb := by
    obtain ⟨a, hlast, ha⟩ := h.beforeFirstSlot tn (htx ▸ hb)
    exact ⟨a, hwire ▸ hlast, ha.trans hnow⟩
  afterSlot i tn hb hi := by
    obtain ⟨a, b, hlast, ha⟩ := h.afterSlot i tn (htx ▸ hb) hi
    exact ⟨a, b, hwire ▸ hlast, ha⟩

/-- With no frame on the line the end of the log is free. -/
theorem endsAsPhase_silent {s : State} (hbrk : s.fs ≠ .brk) (hmark : s.fs ≠ .mark) (htx : s.tx = .idle) :
    EndsAsPhase s where
  inBreak hfs := absurd hfs hbrk
  inMark hfs := absurd hfs hmark
  beforeFirstSlot tn hb := by simp [htx] at hb
  afterSlot i tn hb := by simp [htx] at hb

/-- While the transmitter is busy the log is not empty: it holds at least the mark of the frame. -/
theorem EndsAsPhase.wire_ne_nil {s : State} (h : EndsAsPhase s) (hb : busy s = true) : s.wire ≠ [] := by
  obtain ⟨i, tn, htx⟩ := busy_eq_true.mp hb
  intro hnil
  by_cases hi : i = 0
  · obtain ⟨a, hmark, -⟩ := h.beforeFirstSlot tn (hi ▸ htx)
    have hlast := getLast?_of_endsInMark hmark
    simp [hnil] at hlast
  · obtain ⟨a, b, hlast, -⟩ := h.afterSlot i tn htx (Fin.val_ne_zero_iff.mpr hi)
    simp [hnil] at hlast

/-! ### The operations -/

section Operations
variable {s t : State} (h : WireOrdered s)
include h

/-- A busy transmitter's abort, as `RECOVER` and `RESET` log it, keeps the log in order. -/
theorem logInOrder_abortIfBusy : LogInOrder (if busy s = true then s.wire ++ [.abort s.now] else s.wire) := by
  obtain ⟨-, hlog, hend⟩ := wireOrdered_iff.mp h
  split
  · exact logInOrder_abort hlog s.now (hend.wire_ne_nil ‹_›)
  · exact hlog

/-- A consistent state with the same log, phase and transmitter, perhaps later. -/
theorem WireOrdered.of_same (hc : Consistent t) (hwire : t.wire = s.wire) (hfs : t.fs = s.fs) (htx : t.tx = s.tx)
    (hnow : s.now ≤ t.now) : WireOrdered t := by
  obtain ⟨-, hlog, hend⟩ := wireOrdered_iff.mp h
  exact wireOrdered_iff.mpr ⟨hc, hwire ▸ hlog, hend.of_same hwire hfs htx hnow⟩

theorem wireOrdered_disarmTimer : WireOrdered (disarmTimer s) :=
  h.of_same (consistent_disarmTimer h.consistent) rfl rfl rfl le_rfl

theorem wireOrdered_recover (c : FaultCause) : WireOrdered (recover c s) :=
  wireOrdered_iff.mpr ⟨consistent_recover h.consistent c, recover_wire c s ▸ logInOrder_abortIfBusy h,
    endsAsPhase_silent (by simp) (by simp) (recover_tx c s)⟩

theorem wireOrdered_resetBlock : WireOrdered (resetBlock s) :=
  wireOrdered_iff.mpr ⟨consistent_resetBlock h.consistent,
    resetBlock_wire s ▸ logInOrder_uartIdle (logInOrder_abortIfBusy h) s.now,
    endsAsPhase_silent (by simp) (by simp) (resetBlock_tx s)⟩

/-- A frame starts with a break, which may follow whatever the log ends in. -/
theorem wireOrdered_startFrame (p : Params) (htx : s.tx = .idle) : WireOrdered (startFrame p s) := by
  obtain ⟨hc, hlog, -⟩ := wireOrdered_iff.mp h
  refine wireOrdered_iff.mpr ⟨consistent_startFrame hc p htx, logInOrder_low hlog s.now, ?_⟩
  exact
    { inBreak := fun _ => ⟨s.now, by simp, le_rfl⟩
      inMark := nofun
      beforeFirstSlot := by simp [htx]
      afterSlot := by simp [htx] }

/-- The end of a break puts its mark directly after it. -/
theorem wireOrdered_endBreak (d : Nat) (hfs : s.fs = .brk) :
    WireOrdered (enterFrame .mark (armTimer d (selectUart (driveHigh s)))) := by
  obtain ⟨hc, hlog, hend⟩ := wireOrdered_iff.mp h
  obtain ⟨a, hlow, ha⟩ := hend.inBreak hfs
  have htx : s.tx = .idle := hc.breakSilent hfs
  obtain ⟨k, hk⟩ := List.getLast?_eq_some_iff.mp hlow
  refine wireOrdered_iff.mpr ⟨consistent_endBreak hc d hfs, ?_, ?_⟩
  · simpa using logInOrder_mark hlog hlow ha
  · exact
      { inBreak := nofun
        inMark := fun _ => ⟨s.now, ⟨k, a, by simp [hk]⟩, le_rfl⟩
        beforeFirstSlot := by simp [htx]
        afterSlot := by simp [htx] }

/-- The end of a mark: the transmission of slot 0 is due after it. -/
theorem wireOrdered_endMark (hfs : s.fs = .mark) : WireOrdered (enterFrame .data (startTransmit (disarmTimer s))) := by
  obtain ⟨hc, hlog, hend⟩ := wireOrdered_iff.mp h
  refine wireOrdered_iff.mpr ⟨consistent_endMark hc hfs, hlog, ?_⟩
  exact
    { inBreak := nofun
      inMark := nofun
      beforeFirstSlot := fun _ _ => hend.inMark hfs
      afterSlot := fun _ _ hb hi => absurd (congrArg Fin.val (Transmitter.busy.inj hb).1.symm) hi }

/-- The end of the data, after which a spurious completion leaves the transmitter busy. -/
theorem wireOrdered_endData (hfs : s.fs = .data) : WireOrdered (enterFrame .idle s) := by
  obtain ⟨hc, hlog, hend⟩ := wireOrdered_iff.mp h
  exact wireOrdered_iff.mpr ⟨consistent_endData hc hfs, hlog,
    { inBreak := nofun, inMark := nofun, beforeFirstSlot := hend.beforeFirstSlot, afterSlot := hend.afterSlot }⟩

/-- A slot that is due keeps the log in order: the first after its mark, every other after the slot before it. -/
theorem logInOrder_startSlot {i : Fin 514} {tn : Nat} (hi : i.val ≤ 512) (htx : s.tx = .busy i tn) (hn : tn ≤ s.now) :
    LogInOrder (startSlot i hi s).wire := by
  obtain ⟨-, hlog, hend⟩ := wireOrdered_iff.mp h
  rw [startSlot_wire]
  by_cases h0 : i = 0
  · subst h0
    obtain ⟨a, hmark, ha⟩ := hend.beforeFirstSlot tn htx
    exact logInOrder_firstSlot hlog _ hmark ha
  · have hpos : i.val ≠ 0 := Fin.val_ne_zero_iff.mpr h0
    obtain ⟨a, b, hlast, ha⟩ := hend.afterSlot i tn htx hpos
    have hnext := logInOrder_nextSlot hlog (s.tb.read i.val) hlast (ha.trans hn)
    rwa [Nat.sub_one_add_one hpos] at hnext

theorem wireOrdered_startSlot {i : Fin 514} {tn : Nat} (hi : i.val ≤ 512) (htx : s.tx = .busy i tn)
    (hn : tn ≤ s.now) : WireOrdered (startSlot i hi s) := by
  have hb : busy s = true := busy_eq_true.mpr ⟨i, tn, htx⟩
  have hc : Consistent (startSlot i hi s) := consistent_startSlot h.consistent hi hb
  have htx' : (startSlot i hi s).tx = .busy (nextIndex i hi) (s.now + 44) := startSlot_tx i hi s
  refine wireOrdered_iff.mpr ⟨hc, logInOrder_startSlot h hi htx hn, ?_⟩
  exact
    { inBreak := fun hfs => nomatch htx'.symm.trans (hc.breakSilent hfs)
      inMark := fun hfs => nomatch htx'.symm.trans (hc.markSilent hfs)
      beforeFirstSlot := fun _ hz =>
        absurd (congrArg Fin.val (Transmitter.busy.inj (htx'.symm.trans hz)).1) (Nat.succ_ne_zero i.val)
      afterSlot := fun j tn hj _ => by
        obtain ⟨rfl, rfl⟩ := Transmitter.busy.inj (htx'.symm.trans hj)
        exact ⟨s.now, s.tb.read i.val, by simp [nextIndex], by simp⟩ }

/-- Completion is due only after slot 512. -/
theorem wireOrdered_finishTransmit (hd : doneEnabled s = true) : WireOrdered (finishTransmit s) := by
  obtain ⟨hc, hlog, hend⟩ := wireOrdered_iff.mp h
  obtain ⟨tn, htx, hn⟩ := doneEnabled_iff.mp hd
  obtain ⟨a, b, hlast, ha⟩ := hend.afterSlot 513 tn htx (by decide)
  refine wireOrdered_iff.mpr ⟨consistent_finishTransmit hc, logInOrder_done hlog hlast (ha.trans hn), ?_⟩
  exact endsAsPhase_silent (fun hfs => by simp [hc.breakSilent hfs] at htx)
    (fun hfs => by simp [hc.markSilent hfs] at htx) rfl

theorem wireOrdered_tickWith (p : Params) : WireOrdered (tickWith p s) := by
  rcases tickWith_cases p s with ⟨-, htx, ht⟩ | ⟨-, -, ht⟩ | ht <;> rw [ht]
  · exact wireOrdered_startFrame h p htx
  · exact wireOrdered_recover h .stalledFrame
  · exact h

theorem wireOrdered_timerExpiredWith {p : Params} (ht : timerExpiredWith p s = .next t) : WireOrdered t := by
  rcases timerExpiredWith_next ht with ⟨hfs, rfl⟩ | ⟨hfs, -, rfl⟩ | ⟨-, rfl⟩
  · exact wireOrdered_endBreak h p.tMabUs hfs
  · exact wireOrdered_endMark h hfs
  · exact wireOrdered_recover h .unexpectedSignal

theorem wireOrdered_txCompleted : WireOrdered (txCompleted s) := by
  rcases txCompleted_cases s with ⟨hfs, ht⟩ | ⟨-, ht⟩ <;> rw [ht]
  · exact wireOrdered_endData h hfs
  · exact wireOrdered_recover h .unexpectedSignal

/-- Every move of an agent keeps the wire log in order, spurious signals and resets included. -/
theorem wireOrdered_runMove {m : Move} (hrun : runMove m s = .next t) (hm : m.internal = false) : WireOrdered t := by
  rcases runMove_next hrun hm with ⟨n, -, -, rfl⟩ | ⟨-, -, ht⟩ | ⟨i, tn, hi, -, htx, hn, rfl⟩ | ⟨-, hd, rfl⟩ |
    ⟨mem, r, rfl, hmem⟩ | ⟨-, rfl⟩ | ⟨-, ht⟩ | ⟨-, rfl⟩ | ⟨-, rfl⟩
  · exact h.of_same (consistent_passTime h.consistent n) rfl rfl rfl (Nat.le_add_right ..)
  · exact wireOrdered_timerExpiredWith (wireOrdered_disarmTimer h) ht
  · exact wireOrdered_startSlot h hi htx hn
  · exact wireOrdered_txCompleted (wireOrdered_finishTransmit h hd)
  · exact h.of_same (consistent_producer h.consistent r (hmem h.consistent.channels)) rfl rfl rfl le_rfl
  · exact wireOrdered_tickWith h Config.params
  · exact wireOrdered_timerExpiredWith h ht
  · exact wireOrdered_txCompleted h
  · exact wireOrdered_resetBlock h

end Operations

/-- Settles O46 (R62, R185, R186): the step's move runs on a state with the same log and keeps the log in order. -/
theorem stepKeepsWireOrder : Obligations.StepKeepsWireOrder := by
  intro s t hs hstep
  obtain ⟨u, ⟨rest, n, hu⟩, hcu, hrun⟩ := step_next_agent hs.consistent hstep
  have hou : WireOrdered u := hs.of_same hcu (by rw [hu]) (by rw [hu]) (by rw [hu]) (by rw [hu])
  rcases hrun with rfl | ⟨hm, hrun⟩
  · exact hou
  · exact wireOrdered_runMove hou hrun hm

end Sys2Proof.Safety
end

section
/-! SUPPORT. The isolation of a frame from later producer writes (spec/20_memory.md R65): what a move appends to the wire
log (`Appends`), that a slot carries the Transmit Buffer's byte, and that between two frame starts either the snapshot still
stands in the Transmit Buffer or nothing is being sent (`HoldsSnapshot`). -/

namespace Sys2Proof.Safety

open Sys2Proof.Machine

/-! ### What a move appends to the wire log -/

/-- The wire log of `t` is that of `s` with entries appended that all meet `P`. -/
def Appends (P : WireEntry → Prop) (s t : State) : Prop := ∃ added, t.wire = s.wire ++ added ∧ ∀ e ∈ added, P e

section Appending
variable {P : WireEntry → Prop} {s t u : State}

theorem appends_nothing (h : t.wire = s.wire) : Appends P s t := ⟨[], by simp [h], by simp⟩

theorem appends_one {e : WireEntry} (h : t.wire = s.wire ++ [e]) (he : P e) : Appends P s t :=
  ⟨[e], h, by simpa using he⟩

theorem Appends.trans (h₁ : Appends P s t) (h₂ : Appends P t u) : Appends P s u := by
  obtain ⟨l₁, hw₁, hP₁⟩ := h₁
  obtain ⟨l₂, hw₂, hP₂⟩ := h₂
  exact ⟨l₁ ++ l₂, by rw [hw₂, hw₁, List.append_assoc], fun e he => (List.mem_append.mp he).elim (hP₁ e) (hP₂ e)⟩

theorem Appends.imp {Q : WireEntry → Prop} (h : Appends P s t) (hPQ : ∀ e, P e → Q e) : Appends Q s t := by
  obtain ⟨added, hw, hP⟩ := h
  exact ⟨added, hw, fun e he => hPQ e (hP e he)⟩

/-- What two runs gain one after the other. -/
theorem Appends.gained_eq_append {Q : WireEntry → Prop} (h₁ : Appends P s t) (h₂ : Appends Q t u) :
    gained s u = gained s t ++ gained t u := by
  obtain ⟨l₁, hw₁, -⟩ := h₁
  obtain ⟨l₂, hw₂, -⟩ := h₂
  rw [gained, gained, gained, hw₂, List.drop_left, hw₁, List.append_assoc, List.drop_left, List.drop_left]

/-- Every entry gained meets what the appended entries meet. -/
theorem Appends.forall_gained (h : Appends P s t) : ∀ e ∈ gained s t, P e := by
  obtain ⟨added, hw, hP⟩ := h
  rwa [gained, hw, List.drop_left]

end Appending

/-- A slot entry carries the byte the Transmit Buffer holds at its index, and the transmitter is busy (R185, decision
D27). -/
def SlotFromBuffer (s : State) : WireEntry → Prop
  | .slot _ i b => busy s = true ∧ i ≤ 512 ∧ b = readTb s i
  | _ => True

theorem appends_abortTransmit (u s : State) : Appends (SlotFromBuffer u) s (abortTransmit s) := by
  cases hb : busy s
  · exact appends_nothing (by simp [hb])
  · exact appends_one (e := .abort s.now) (by simp [hb]) trivial

theorem appends_recover (u : State) (c : FaultCause) (s : State) : Appends (SlotFromBuffer u) s (recover c s) :=
  (appends_abortTransmit u s).trans (appends_nothing (by simp))

theorem appends_resetBlock (u s : State) : Appends (SlotFromBuffer u) s (resetBlock s) :=
  (appends_abortTransmit u s).trans (appends_one (e := .uartIdle s.now) (by simp) trivial)

theorem appends_tickWith (u : State) (p : Params) (s : State) : Appends (SlotFromBuffer u) s (tickWith p s) := by
  rcases tickWith_cases p s with ⟨-, -, h⟩ | ⟨-, -, h⟩ | h <;> rw [h]
  · exact appends_one (e := .low s.now) rfl trivial
  · exact appends_recover u .stalledFrame s
  · exact appends_nothing rfl

theorem appends_timerExpiredWith (u : State) {p : Params} {s t : State} (h : timerExpiredWith p s = .next t) :
    Appends (SlotFromBuffer u) s t := by
  rcases timerExpiredWith_next h with ⟨-, rfl⟩ | ⟨-, -, rfl⟩ | ⟨-, rfl⟩
  · exact (appends_one (t := driveHigh s) (driveHigh_wire s) trivial).trans (appends_one rfl trivial)
  · exact appends_nothing rfl
  · exact appends_recover u .unexpectedSignal s

theorem appends_txCompleted (u s : State) : Appends (SlotFromBuffer u) s (txCompleted s) := by
  rcases txCompleted_cases s with ⟨-, h⟩ | ⟨-, h⟩ <;> rw [h]
  · exact appends_nothing rfl
  · exact appends_recover u .unexpectedSignal s

/-- Every slot a move of an agent puts on the wire carries the Transmit Buffer's byte. -/
theorem runMove_appends {m : Move} {s t : State} (hrun : runMove m s = .next t) (hm : m.internal = false) :
    Appends (SlotFromBuffer s) s t := by
  rcases runMove_next hrun hm with ⟨n, -, -, rfl⟩ | ⟨-, -, ht⟩ | ⟨i, tn, hi, -, htx, -, rfl⟩ | ⟨-, -, rfl⟩ |
    ⟨mem, r, rfl, -⟩ | ⟨-, rfl⟩ | ⟨-, ht⟩ | ⟨-, rfl⟩ | ⟨-, rfl⟩
  · exact appends_nothing rfl
  · exact (appends_nothing (t := disarmTimer s) rfl).trans (appends_timerExpiredWith s ht)
  · exact appends_one (startSlot_wire i hi s) ⟨busy_eq_true.mpr ⟨i, tn, htx⟩, hi, rfl⟩
  · exact (appends_one (finishTransmit_wire s) trivial).trans (appends_txCompleted s _)
  · exact appends_nothing rfl
  · exact appends_tickWith s Config.params s
  · exact appends_timerExpiredWith s ht
  · exact appends_txCompleted s s
  · exact appends_resetBlock s s

/-! ### Between two frame starts -/

/-- Nothing is being sent, and no frame is in progress. -/
def AtRest (s : State) : Prop := s.fs = .idle ∧ s.tx = .idle

theorem atRest_timerExpiredWith {p : Params} {s t : State} (hs : AtRest s) (h : timerExpiredWith p s = .next t) :
    AtRest t := by
  obtain ⟨hfs, -⟩ := hs
  rcases timerExpiredWith_next h with ⟨hb, -⟩ | ⟨hm, -, -⟩ | ⟨-, rfl⟩
  · simp [hfs] at hb
  · simp [hfs] at hm
  · exact ⟨recover_fs .., recover_tx ..⟩

theorem atRest_txCompleted {s : State} (hs : AtRest s) : AtRest (txCompleted s) := by
  rcases txCompleted_cases s with ⟨hd, -⟩ | ⟨-, h⟩
  · simp [hs.1] at hd
  · rw [h]
    exact ⟨recover_fs .., recover_tx ..⟩

/-- Only a frame start ends the rest. -/
theorem runMove_atRest {m : Move} {s t : State} (hs : AtRest s) (hrun : runMove m s = .next t)
    (hm : m.internal = false) : AtRest t ∨ t = startFrame Config.params s := by
  obtain ⟨hfs, htx⟩ := hs
  rcases runMove_next hrun hm with ⟨n, -, -, rfl⟩ | ⟨-, -, ht⟩ | ⟨i, tn, hi, -, hb, -, rfl⟩ | ⟨-, -, rfl⟩ |
    ⟨mem, r, rfl, -⟩ | ⟨-, rfl⟩ | ⟨-, ht⟩ | ⟨-, rfl⟩ | ⟨-, rfl⟩
  · exact .inl ⟨hfs, htx⟩
  · exact .inl (atRest_timerExpiredWith (s := disarmTimer s) ⟨hfs, htx⟩ ht)
  · simp [htx] at hb
  · exact .inl (atRest_txCompleted (s := finishTransmit s) ⟨hfs, rfl⟩)
  · exact .inl ⟨hfs, htx⟩
  · rcases tickWith_cases Config.params s with ⟨-, -, h⟩ | ⟨hne, -, -⟩ | h
    · exact .inr h
    · exact absurd hfs hne
    · exact .inl (h.symm ▸ ⟨hfs, htx⟩)
  · exact .inl (atRest_timerExpiredWith ⟨hfs, htx⟩ ht)
  · exact .inl (atRest_txCompleted ⟨hfs, htx⟩)
  · exact .inl ⟨resetBlock_fs s, resetBlock_tx s⟩

/-- The Transmit Buffer holds the bytes `f`, or nothing is being sent: after a `RESET`, which draws the buffer anew, no slot
goes out before the next frame start. -/
def HoldsSnapshot (f : Nat → Byte) (s : State) : Prop := (∀ i ≤ 512, readTb s i = f i) ∨ AtRest s

/-- What a frame carries for the channel bytes of `s`: the start code, then the channels (R52, R59). -/
def snapshotByte (s : State) (i : Nat) : Byte := if i = 0 then 0 else readCb s i

theorem holdsSnapshot_startFrame (p : Params) (s : State) : HoldsSnapshot (snapshotByte s) (startFrame p s) := by
  refine .inl fun i hi => ?_
  rw [show readTb (startFrame p s) i = readTb (takeSnapshot s) i from rfl, readTb_takeSnapshot, snapshotByte]
  by_cases h0 : i = 0
  · simp [h0]
  · rw [if_pos ⟨Nat.one_le_iff_ne_zero.mpr h0, hi⟩, if_neg h0]

/-- Every move of an agent keeps the snapshot, but for the start of the next frame. -/
theorem runMove_holdsSnapshot {f : Nat → Byte} {m : Move} {s t : State} (hs : HoldsSnapshot f s)
    (hrun : runMove m s = .next t) (hm : m.internal = false) :
    HoldsSnapshot f t ∨ t = startFrame Config.params s := by
  rcases hs with hf | hrest
  · rcases runMove_tb hrun with htb | ⟨-, -, -, rfl⟩ | ⟨-, rfl⟩
    · exact .inl (.inl fun i hi => by rw [readTb, htb]; exact hf i hi)
    · exact .inr rfl
    · exact .inl (.inr ⟨resetBlock_fs s, resetBlock_tx s⟩)
  · exact (runMove_atRest hrest hrun hm).imp_left .inr

/-- A slot entry carries the byte of `f` at its index. -/
def CarriesSnapshot (f : Nat → Byte) : WireEntry → Prop
  | .slot _ i b => i ≤ 512 ∧ b = f i
  | _ => True

/-- A slot goes out with the transmitter busy, so its byte is the snapshot's. -/
theorem HoldsSnapshot.carries {f : Nat → Byte} {s : State} (hs : HoldsSnapshot f s) {e : WireEntry}
    (he : SlotFromBuffer s e) : CarriesSnapshot f e := by
  cases e with
  | slot k i b =>
    obtain ⟨hb, hi, rfl⟩ := he
    rcases hs with hf | ⟨-, htx⟩
    · exact ⟨hi, hf i hi⟩
    · simp [busy_eq_false.mpr htx] at hb
  | _ => trivial

theorem runMoves_appends {ms : List Move} {s t : State} (hrun : runMoves ms s = .next t)
    (hms : ∀ m ∈ ms, m.internal = false) : Appends (fun _ => True) s t := by
  induction ms generalizing s with
  | nil => obtain rfl := Host.Outcome.next.inj hrun; exact appends_nothing rfl
  | cons m ms ih =>
    obtain ⟨hm, hms⟩ := List.forall_mem_cons.mp hms
    rw [runMoves_cons] at hrun
    obtain ⟨u, hmove, hrest⟩ := onNext_next hrun
    exact ((runMove_appends hmove hm).imp fun _ _ => trivial).trans (ih hrest hms)

/-- Along a run of agents' moves the slots carry the snapshot, up to the break of the next frame. -/
theorem runMoves_carriesSnapshot {f : Nat → Byte} {ms : List Move} {s t : State} (hs : HoldsSnapshot f s)
    (hrun : runMoves ms s = .next t) (hms : ∀ m ∈ ms, m.internal = false) (hlow : ∀ k, .low k ∉ gained s t) :
    Appends (CarriesSnapshot f) s t := by
  induction ms generalizing s with
  | nil => obtain rfl := Host.Outcome.next.inj hrun; exact appends_nothing rfl
  | cons m ms ih =>
    obtain ⟨hm, hms⟩ := List.forall_mem_cons.mp hms
    rw [runMoves_cons] at hrun
    obtain ⟨u, hmove, hrest⟩ := onNext_next hrun
    have hsu : Appends (SlotFromBuffer s) s u := runMove_appends hmove hm
    rw [hsu.gained_eq_append (runMoves_appends hrest hms)] at hlow
    simp only [List.mem_append, not_or, forall_and] at hlow
    obtain ⟨hlow, hlow'⟩ := hlow
    rcases runMove_holdsSnapshot hs hmove hm with hu | rfl
    · exact (hsu.imp fun _ => hs.carries).trans (ih hu hrest hms hlow')
    · exact absurd (by simp [gained]) (hlow s.now)

/-- Settles O49 (R65, T1 and T2): the frame start leaves the snapshot in the Transmit Buffer, every later move keeps it
there or lets nothing be sent, and a slot carries the Transmit Buffer's byte. -/
theorem snapshotIsolation : Obligations.SnapshotIsolation := by
  intro s s₁ t ms hfs htx htick hms hrun hlow k i b hslot
  obtain rfl : tickWith Config.params s = s₁ := Host.Outcome.next.inj htick
  have hstart : tickWith Config.params s = startFrame Config.params s := by
    simp [tickWith_eq_ite, hfs, busy_eq_false.mpr htx]
  rw [hstart] at hrun hlow hslot
  have hcarries := runMoves_carriesSnapshot (holdsSnapshot_startFrame Config.params s) hrun hms hlow
  exact hcarries.forall_gained _ hslot

end Sys2Proof.Safety
end

section
/-! SUPPORT. The Channel Buffer's readers (spec/20_memory.md R60, R65): with another Channel Buffer every operation but a
producer operation, `RESET` and a frame start leads to the same state but for that buffer. One equation per operation says
so; taken with the state's own buffer it also says that the operation leaves the buffer alone. -/

namespace Sys2Proof.Machine

/-- The state with another Channel Buffer. -/
def withCb (c : Memory) (s : State) : State := { s with cb := c }

/-- The outcome with another Channel Buffer in its next state; a stop stays the same stop. -/
def outcomeWithCb (c : Memory) (o : Host.Outcome State Fault Refusal) : Host.Outcome State Fault Refusal :=
  onNext o fun t => .next (withCb c t)

@[simp] theorem outcomeWithCb_next (c : Memory) (t : State) : outcomeWithCb c (.next t) = .next (withCb c t) := rfl

@[simp] theorem outcomeWithCb_refused (c : Memory) (r : Refusal) : outcomeWithCb c (.refused r) = .refused r := rfl

/-! ### The operations -/

section Operations
variable (c : Memory) (s : State)

theorem abortTransmit_withCb : abortTransmit (withCb c s) = withCb c (abortTransmit s) := by
  rw [abortTransmit_eq, abortTransmit_eq]
  rfl

theorem recover_withCb (f : FaultCause) : recover f (withCb c s) = withCb c (recover f s) := by
  rw [recover_eq, recover_eq]
  rfl

/-- Outside a frame start `TICK` looks at the watchdog's condition alone. -/
theorem tickWith_withCb (p : Params) (h : s.fs ≠ .idle ∨ busy s = true) :
    tickWith p (withCb c s) = withCb c (tickWith p s) := by
  rw [tickWith_eq_ite, tickWith_eq_ite, recover_withCb]
  show (if s.fs = .idle then if busy s = true then withCb c s else startFrame p (withCb c s)
    else if stalled p s = true then withCb c (recover .stalledFrame s) else withCb c s) = _
  by_cases hfs : s.fs = .idle
  · have hb : busy s = true := h.resolve_left (not_not_intro hfs)
    rw [if_pos hfs, if_pos hb, if_pos hfs, if_pos hb]
  · rw [if_neg hfs, if_neg hfs, apply_ite (withCb c)]

theorem txCompleted_withCb : txCompleted (withCb c s) = withCb c (txCompleted s) := by
  rw [txCompleted_eq_ite, txCompleted_eq_ite, recover_withCb, apply_ite (withCb c)]
  rfl

theorem transmitBuffer_withCb : transmitBuffer (withCb c s) = outcomeWithCb c (transmitBuffer s) := by
  rw [transmitBuffer, transmitBuffer, apply_ite (outcomeWithCb c)]
  rfl

theorem timerExpiredWith_withCb (p : Params) :
    timerExpiredWith p (withCb c s) = outcomeWithCb c (timerExpiredWith p s) := by
  simp only [timerExpiredWith_eq_ite, recover_withCb, apply_ite (outcomeWithCb c)]
  rfl

theorem expireWith_withCb (p : Params) : expireWith p (withCb c s) = outcomeWithCb c (expireWith p s) := by
  rw [expireWith, expireWith, apply_ite (outcomeWithCb c), ← timerExpiredWith_withCb]
  rfl

theorem advanceWith_withCb (p : Params) (n : Nat) :
    advanceWith p n (withCb c s) = outcomeWithCb c (advanceWith p n s) := by
  rw [advanceWith, advanceWith, apply_ite (outcomeWithCb c)]
  rfl

/-- A slot reads the Transmit Buffer. -/
theorem txSlot_withCb : txSlot (withCb c s) = outcomeWithCb c (txSlot s) := by
  cases h : slotEnabled s
  · rw [txSlot_of_not_enabled h, txSlot_of_not_enabled (s := withCb c s) h]
    rfl
  · obtain ⟨i, tn, htx, hi, hn⟩ := slotEnabled_iff.mp h
    rw [txSlot_of_enabled htx hi hn, txSlot_of_enabled (s := withCb c s) htx hi hn]
    rfl

theorem txDone_withCb : txDone (withCb c s) = outcomeWithCb c (txDone s) := by
  rw [txDone, txDone, apply_ite (outcomeWithCb c), outcomeWithCb_next, ← txCompleted_withCb]
  rfl

/-- An operation that is neither a producer operation nor a `RESET` nor a frame start does not look at the Channel
Buffer. -/
theorem exec_withCb {i : Instr} (hp : classOf i ≠ .producer) (hr : i ≠ .reset)
    (htick : i = .tick → s.fs ≠ .idle ∨ busy s = true) : exec i (withCb c s) = outcomeWithCb c (exec i s) := by
  cases i with
  | reset => exact absurd rfl hr
  | set a v => exact absurd rfl hp
  | get a => exact absurd rfl hp
  | setAll v => exact absurd rfl hp
  | blendOne a r g b => exact absurd rfl hp
  | blendAll r g b => exact absurd rfl hp
  | tick => exact congrArg _ (tickWith_withCb c s Config.params (htick rfl))
  | timerExpired => exact timerExpiredWith_withCb c s Config.params
  | txComplete => exact congrArg _ (txCompleted_withCb c s)
  | transmit => exact transmitBuffer_withCb c s
  | abort => exact congrArg _ (abortTransmit_withCb c s)
  | arm d => rfl
  | disarm => rfl
  | setRawLow => rfl
  | setRawHigh => rfl
  | setUart => rfl

theorem runRequest_withCb {w : RequestWord} (x : Context)
    (hp : ∀ i, decode w = .op i → classOf i ≠ .producer ∧ i ≠ .reset)
    (htick : decode w = .op .tick → s.fs ≠ .idle ∨ busy s = true) :
    runRequest x w (withCb c s) = outcomeWithCb c (runRequest x w s) := by
  unfold runRequest
  cases hw : decode w with
  | invalid opc => rfl
  | op i =>
    obtain ⟨hclass, hr⟩ := hp i hw
    simp only [apply_ite (outcomeWithCb c), outcomeWithCb_refused,
      exec_withCb c s hclass hr fun hi => htick (hi ▸ hw)]

/-- Every move but a producer operation, a `RESET` and a frame start does not look at the Channel Buffer. -/
theorem runMove_withCb {m : Move}
    (hp : ∀ x w i, m = .request x w → decode w = .op i → classOf i ≠ .producer ∧ i ≠ .reset)
    (htick : m.presents .tick = true → s.fs ≠ .idle ∨ busy s = true) :
    runMove m (withCb c s) = outcomeWithCb c (runMove m s) := by
  cases m with
  | request x w =>
    exact runRequest_withCb c s x (fun i => hp x w i rfl) fun hw => htick (by simp [Move.presents, hw])
  | advance n => exact advanceWith_withCb c s Config.params n
  | expire => exact expireWith_withCb c s Config.params
  | txSlot => exact txSlot_withCb c s
  | txDone => exact txDone_withCb c s

end Operations

/-- Settles O52 (R60, R65): `runMove_withCb`, once with the other buffer and once with the state's own. -/
theorem channelBufferNeverInfluencesFrame : Obligations.ChannelBufferNeverInfluencesFrame := by
  intro m s c hp htick
  have hother : runMove m { s with cb := c } = outcomeWithCb c (runMove m s) := runMove_withCb c s hp htick
  have hown : runMove m s = outcomeWithCb s.cb (runMove m s) := runMove_withCb s.cb s hp htick
  rw [hother]
  cases hrun : runMove m s with
  | next t =>
    rw [hrun, outcomeWithCb_next] at hown
    have hcb : t.cb = (withCb s.cb t).cb := congrArg State.cb (Host.Outcome.next.inj hown)
    exact ⟨rfl, hcb⟩
  | fault r => cases r
  | refused r => rfl

end Sys2Proof.Machine
end

section
/-! SUPPORT. Reads without effects and idempotent writes (spec/20_memory.md R58). -/

namespace Sys2Proof.Machine

/-- The write of one channel that `SET` and `BLEND_ONE` share (R110, R113). -/
def writeChannel (a : Int) (v : Byte) (s : State) : State := atChannel a s fun k => respond .ok (writeCb k v s)

theorem exec_set_eq_writeChannel (a v : Int) (s : State) :
    exec (.set a v) s = .next (writeChannel a (clamp8 v) s) := rfl

theorem exec_blendOne_eq_writeChannel (a r g b : Int) (s : State) :
    exec (.blendOne a r g b) s = .next (writeChannel a (blend r g b) s) := rfl

/-- Writing one channel twice is writing it once, and an invalid address is refused twice as it is once. -/
theorem writeChannel_idempotent (a : Int) (v : Byte) (s : State) :
    writeChannel a v (writeChannel a v s) = writeChannel a v s := by
  unfold writeChannel
  cases ha : validAddress a
  · simp only [atChannel_invalid ha]
    rfl
  · simp only [atChannel_valid ha]
    simp [respond, writeCb, Memory.write_write]

/-- A producer write performed twice is performed once. -/
theorem exec_producer_idempotent {i : Instr} {s t : State} (hi : classOf i = .producer) (hget : ∀ a, i ≠ .get a)
    (h : exec i s = .next t) : exec i t = .next t := by
  cases i with
  | set a v =>
    rw [exec_set_eq_writeChannel] at h ⊢
    obtain rfl := Host.Outcome.next.inj h
    rw [writeChannel_idempotent]
  | blendOne a r g b =>
    rw [exec_blendOne_eq_writeChannel] at h ⊢
    obtain rfl := Host.Outcome.next.inj h
    rw [writeChannel_idempotent]
  | setAll v => obtain rfl := Host.Outcome.next.inj h; rfl
  | blendAll r g b => obtain rfl := Host.Outcome.next.inj h; rfl
  | get a => exact absurd rfl (hget a)
  | _ => cases hi

/-- A producer operation changes the Channel Buffer and its response, and nothing else. -/
theorem exec_producer_frame {i : Instr} {s t : State} (hi : classOf i = .producer) (h : exec i s = .next t) :
    t = { s with cb := t.cb, response := t.response } := by
  obtain ⟨m, r, hexec, -⟩ := exec_producer hi s
  obtain rfl := Host.Outcome.next.inj (hexec.symm.trans h)
  rfl

/-- Settles O17 (R58): `GET` is a producer operation that leaves the buffer alone, the copy and the slots read only, and
the four writes have `exec_producer`'s frame and are idempotent. -/
theorem readsPureWritesIdempotent : Obligations.ReadsPureWritesIdempotent := by
  refine ⟨fun a s t h => ?_, fun s t h => ?_, fun s t h => ?_, fun i s t hi h => ?_⟩
  · have hframe := exec_producer_frame (i := .get a) rfl h
    rwa [exec_cb h (fun _ => ⟨a, rfl⟩) nofun] at hframe
  · obtain rfl := Host.Outcome.next.inj h
    exact tickWith_cb Config.params s
  · obtain ⟨i, tn, hi, -, -, rfl⟩ := txSlot_next h
    exact startSlot_tb i hi s
  · have hclass : classOf i = .producer ∧ ∀ a, i ≠ .get a := by
      rcases hi with ⟨a, v, rfl⟩ | ⟨v, rfl⟩ | ⟨a, r, g, b, rfl⟩ | ⟨r, g, b, rfl⟩ <;> exact ⟨rfl, nofun⟩
    exact ⟨exec_producer_frame hclass.1 h, exec_producer_idempotent hclass.1 hclass.2 h⟩

end Sys2Proof.Machine
end

section
/-! SUPPORT. The request word (spec/30_encoding.md R81 to R85). The operation code alone selects the operation, and its
operands are read from the fields of the same word: `Instr.withFields` says so for all sixteen operations at once, and
both directions of the encoding follow from it. -/

namespace Sys2Proof

open Sys2Proof.Safety

/-! ### The operations and their codes -/

/-- The operation with the code of `i` and the operands in the fields of `w` (R83). -/
def Instr.withFields (w : RequestWord) : Instr → Instr
  | .set _ _ => .set (sext16 (fieldA w)) (sext16 (fieldV0 w))
  | .get _ => .get (sext16 (fieldA w))
  | .setAll _ => .setAll (sext16 (fieldV0 w))
  | .blendOne _ _ _ _ =>
    .blendOne (sext16 (fieldA w)) (sext16 (fieldV0 w)) (sext16 (fieldV1 w)) (sext16 (fieldV2 w))
  | .blendAll _ _ _ => .blendAll (sext16 (fieldV0 w)) (sext16 (fieldV1 w)) (sext16 (fieldV2 w))
  | .arm _ => .arm (zext16 (fieldV0 w))
  | i => i

/-- What the decoder gives for a word that carries the code of `i`. -/
theorem decode_of_fieldOpc {w : RequestWord} {i : Instr} (h : fieldOpc w = i.opcode) :
    decode w = .op (i.withFields w) := by
  unfold decode
  rw [h]
  cases i <;> rfl

theorem withFields_of_decode {w : RequestWord} {i : Instr} (h : decode w = .op i) : i.withFields w = i :=
  Decoded.op.inj ((decode_of_fieldOpc (fieldOpc_of_decode h)).symm.trans h)

/-- A rejected word is answered with its own code. -/
theorem decode_cases (w : RequestWord) : (∃ i, decode w = .op i) ∨ decode w = .invalid (fieldOpc w) := by
  unfold decode
  split
  case h_17 => exact .inr rfl
  all_goals exact .inl ⟨_, rfl⟩

theorem opcode_mem_listedOpcodes (i : Instr) : i.opcode ∈ listedOpcodes := by
  cases i <;> simp [Instr.opcode, listedOpcodes]

theorem fieldOpc_mem_of_decode {w : RequestWord} {i : Instr} (h : decode w = .op i) : fieldOpc w ∈ listedOpcodes := by
  rw [fieldOpc_of_decode h]
  exact opcode_mem_listedOpcodes i

/-! ### From an operation to its word and back -/

theorem fieldOpc_encode (i : Instr) : fieldOpc (encode i) = i.opcode := by
  cases i <;> exact fieldOpc_assemble ..

/-- The canonical word of a well-formed operation holds its operands. -/
theorem withFields_encode {i : Instr} (h : i.wellFormed = true) : i.withFields (encode i) = i := by
  cases i with
  | set | get | setAll | blendOne | blendAll =>
    simp only [Instr.wellFormed, Bool.and_eq_true] at h
    simp [Instr.withFields, encode, sext16_half, h]
  | arm d => simp [Instr.withFields, encode, zext16_ofNat h]
  | _ => rfl

/-- Settles O1 (R81, R82, R83): the canonical word carries the operation's code, so the decoder reads the operands back
from their fields. -/
theorem decodeEncodeRoundTrip : Obligations.DecodeEncodeRoundTrip := by
  intro i h
  rw [decode_of_fieldOpc (fieldOpc_encode i), withFields_encode h]

/-! ### From a word to its operation and back -/

theorem wellFormed_withFields (w : RequestWord) (i : Instr) : (i.withFields w).wellFormed = true := by
  cases i <;> simp [Instr.withFields, Instr.wellFormed, fitsSigned_sext16, fitsUnsigned_zext16]

/-- A word is its five fields side by side (R81). -/
theorem assemble_fields (w : RequestWord) :
    assemble (fieldOpc w) (fieldA w) (fieldV0 w) (fieldV1 w) (fieldV2 w) = w := by
  have join {i j m n : Nat} (h : i = j + n) : w.extractLsb' i m ++ w.extractLsb' j n = w.extractLsb' j (m + n) :=
    BitVec.extractLsb'_append_extractLsb'_eq_extractLsb' h
  unfold assemble fieldOpc fieldA fieldV0 fieldV1 fieldV2
  rw [join (i := 64) (j := 48) rfl, join (i := 48) (j := 32) rfl, join (i := 32) (j := 16) rfl,
    join (i := 16) (j := 0) rfl]
  exact BitVec.extractLsb'_eq_self

/-- Words are masked field by field. -/
theorem assemble_and_assemble (o o' : Byte) (a a' v0 v0' v1 v1' v2 v2' : Half) :
    assemble o a v0 v1 v2 &&& assemble o' a' v0' v1' v2' =
      assemble (o &&& o') (a &&& a') (v0 &&& v0') (v1 &&& v1') (v2 &&& v2') := by
  have h : (o ++ a ++ v0 ++ v1 ++ v2) &&& (o' ++ a' ++ v0' ++ v1' ++ v2') =
      (o &&& o') ++ (a &&& a') ++ (v0 &&& v0') ++ (v1 &&& v1') ++ (v2 &&& v2') := by
    simp only [BitVec.and_append]
  exact h

/-- A field that is kept, or zero. -/
def keepField (used : Bool) (h : Half) : Half := if used then h else 0

/-- Masking whole fields keeps the fields of the word that are used. -/
theorem and_assemble (w : RequestWord) (a v0 v1 v2 : Bool) :
    w &&& assemble 0xFF (keepField a 0xFFFF) (keepField v0 0xFFFF) (keepField v1 0xFFFF) (keepField v2 0xFFFF) =
      assemble (fieldOpc w) (keepField a (fieldA w)) (keepField v0 (fieldV0 w)) (keepField v1 (fieldV1 w))
        (keepField v2 (fieldV2 w)) := by
  have hopc : fieldOpc w &&& 0xFF = fieldOpc w := BitVec.and_allOnes
  have hfield : ∀ (used : Bool) (h : Half), h &&& keepField used 0xFFFF = keepField used h := by
    intro used h
    cases used
    · exact BitVec.and_zero
    · exact BitVec.and_allOnes
  conv_lhs => rw [← assemble_fields w]
  rw [assemble_and_assemble, hopc, hfield, hfield, hfield, hfield]

/-- The canonical word of the operation that `w` presents is `w` without its unused fields. -/
theorem encode_withFields {w : RequestWord} {i : Instr} (h : fieldOpc w = i.opcode) :
    encode (i.withFields w) = w &&& usedBits i := by
  have hmask := and_assemble w
  rw [h] at hmask
  cases i <;> simp only [Instr.withFields, encode, half_sext16, ofNat_zext16]
  case set => exact (hmask true true false false).symm
  case get => exact (hmask true false false false).symm
  case setAll | arm => exact (hmask false true false false).symm
  case blendOne => exact (hmask true true true true).symm
  case blendAll => exact (hmask false true true true).symm
  all_goals exact (hmask false false false false).symm

/-- Settles O2 (R81, R83): the decoded operation has its operands from the word's fields, which fit, and encoding them
puts them back in their places. -/
theorem decodedOperationsReencode : Obligations.DecodedOperationsReencode := by
  intro w i h
  have hfields : i.withFields w = i := withFields_of_decode h
  have hwf := wellFormed_withFields w i
  have hword := encode_withFields (fieldOpc_of_decode h)
  rw [hfields] at hwf hword
  exact ⟨hwf, hword⟩

/-! ### Reserved codes -/

/-- The listed codes are the sixteen operations' codes, in the order of R82's table. -/
theorem listedOpcodes_eq_map : listedOpcodes =
    [Instr.reset, .set 0 0, .get 0, .setAll 0, .blendOne 0 0 0 0, .blendAll 0 0 0, .tick, .timerExpired, .txComplete,
      .arm 0, .disarm, .setRawLow, .setRawHigh, .setUart, .transmit, .abort].map Instr.opcode := rfl

theorem exists_opcode_of_mem {o : Byte} (h : o ∈ listedOpcodes) : ∃ i : Instr, i.opcode = o := by
  rw [listedOpcodes_eq_map, List.mem_map] at h
  obtain ⟨i, -, hi⟩ := h
  exact ⟨i, hi⟩

theorem exists_decode_iff (w : RequestWord) : (∃ i, decode w = .op i) ↔ fieldOpc w ∈ listedOpcodes := by
  constructor
  · rintro ⟨i, h⟩
    exact fieldOpc_mem_of_decode h
  · intro h
    obtain ⟨i, hi⟩ := exists_opcode_of_mem h
    exact ⟨i.withFields w, decode_of_fieldOpc hi.symm⟩

theorem decode_of_not_mem {w : RequestWord} (h : fieldOpc w ∉ listedOpcodes) : decode w = .invalid (fieldOpc w) :=
  (decode_cases w).resolve_left fun hop => h ((exists_decode_iff w).mp hop)

/-! ### Printed words -/

theorem decode_of_encode {w : RequestWord} {i : Instr} (hi : i.wellFormed = true) (hw : encode i = w) :
    decode w = .op i := by
  rw [← hw, decodeEncodeRoundTrip i hi]

/-- Settles O4 (R82, R83): every printed word but that of `TICK` is the canonical word of its operation; `TICK`'s has
all its unused bits set, and is read by its code. -/
theorem writtenWordsDecode : Obligations.WrittenWordsDecode := by
  have tick : decode 0x20FFFFFFFFFFFFFFFF = .op .tick := decode_of_fieldOpc (i := .tick) rfl
  refine ⟨?_, ?_, ?_, ?_, ?_, ?_, tick, ?_, ?_, ?_, ?_, ?_, ?_, ?_, ?_, ?_⟩ <;>
    exact decode_of_encode (by decide) (by decide)

end Sys2Proof
end

section
/-! SUPPORT. What a presented word runs (spec/30_encoding.md R85 and R95, spec/60_exceptions.md R212), and the response
word of the producer operations (spec/30_encoding.md R89). -/

namespace Sys2Proof.Machine

/-! ### Reserved codes -/

theorem runRequest_invalid {w : RequestWord} {o : Byte} (h : decode w = .invalid o) (c : Context) (s : State) :
    runRequest c w s = .refused (.reservedOpcode o) := by
  unfold runRequest
  rw [h]

/-- Settles O3 (R85): every listed code is the code of an operation and every operation's code is listed; any other word
the decoder rejects, and the request is refused before its context or the state is looked at. -/
theorem reservedOpcodesHaveNoMeaning : Obligations.ReservedOpcodesHaveNoMeaning := by
  refine ⟨exists_decode_iff, fun w h => ?_⟩
  have hdecode := decode_of_not_mem h
  refine ⟨hdecode, fun c s => ?_⟩
  rw [runMove_request, runRequest_invalid hdecode]

/-! ### Presented words and autonomous steps -/

theorem decode_tableWord {nbits w : Nat} {i : Instr} (h : decodeTableWord nbits w = some i) :
    decode (tableWord nbits w) = .op i := by
  unfold decodeTableWord at h
  split at h
  · cases hw : decode (tableWord nbits w) with
    | op j =>
      rw [hw] at h
      exact congrArg Decoded.op (Option.some.inj h)
    | invalid o =>
      rw [hw] at h
      cases h
  · cases h

/-- A word may be presented in the context it is wired to. -/
theorem mayRequest_homeContext {w : RequestWord} {i : Instr} (h : decode w = .op i) :
    mayRequest (homeContext w) i = true := by
  unfold homeContext
  rw [h]
  cases i <;> rfl

/-- Settles O7 (R82, R212): the presented word is the next move, in a context that may present it, and its step leaves
the rest of the trace as it was. -/
theorem presentedWordRuns : Obligations.PresentedWordRuns := by
  intro s nbits w i h
  have hdecode := decode_tableWord h
  exact stepRunsRequestedOperation (s.withFetchWord nbits w) _ _ s.trace i rfl hdecode (mayRequest_homeContext hdecode)

/-- Settles O6 (R95): the step takes the move at the head of the trace, and an autonomous step is its agent's. -/
theorem stepTakesAutonomousMove : Obligations.StepTakesAutonomousMove := fun _ _ =>
  ⟨fun n h => (step_trace h).trans (runMove_advance n _), fun h => (step_trace h).trans (runMove_expire _),
    fun h => (step_trace h).trans (runMove_txSlot _), fun h => (step_trace h).trans (runMove_txDone _)⟩

/-! ### The response word -/

theorem responseWord_status (r : Response) :
    (responseWord r).extractLsb' 8 8 = if r = .invalidAddress then 1 else 0 := by
  cases r with
  | ok => rfl
  | value b => exact BitVec.extractLsb'_append_eq_left
  | invalidAddress => rfl

theorem responseWord_data_ok : (responseWord .ok).extractLsb' 0 8 = 0 := rfl

theorem responseWord_data_value (b : Byte) : (responseWord (.value b)).extractLsb' 0 8 = b :=
  BitVec.extractLsb'_append_eq_right

theorem responseWord_data_invalidAddress : (responseWord .invalidAddress).extractLsb' 0 8 = 0 := rfl

/-- The write of one channel reports whether the address is valid, and no byte. -/
theorem writeChannel_response (a : Int) (v : Byte) (s : State) :
    (writeChannel a v s).response = some .ok ∨ (writeChannel a v s).response = some .invalidAddress := by
  unfold writeChannel
  cases ha : validAddress a
  · rw [atChannel_invalid ha]
    exact .inr rfl
  · rw [atChannel_valid ha]
    exact .inl rfl

/-- A producer operation other than `GET` returns no byte. -/
theorem exec_write_response {i : Instr} {s t : State} (hi : classOf i = .producer) (hget : ∀ a, i ≠ .get a)
    (h : exec i s = .next t) : t.response = some .ok ∨ t.response = some .invalidAddress := by
  cases i with
  | set a v =>
    obtain rfl := Host.Outcome.next.inj ((exec_set_eq_writeChannel a v s).symm.trans h)
    exact writeChannel_response a _ s
  | blendOne a r g b =>
    obtain rfl := Host.Outcome.next.inj ((exec_blendOne_eq_writeChannel a r g b s).symm.trans h)
    exact writeChannel_response a _ s
  | setAll v => obtain rfl := Host.Outcome.next.inj h; exact .inl rfl
  | blendAll r g b => obtain rfl := Host.Outcome.next.inj h; exact .inl rfl
  | get a => exact absurd rfl (hget a)
  | _ => cases hi

/-- `GET` returns the byte at a valid address, and reports any other. -/
theorem exec_get_response {a : Int} {s t : State} (h : exec (.get a) s = .next t) :
    t.response = some (if 1 ≤ a ∧ a ≤ 512 then .value (readCb s a.toNat) else .invalidAddress) := by
  obtain rfl := Host.Outcome.next.inj ((exec_get a s).symm.trans h)
  simp only [← validAddress_iff]
  cases ha : validAddress a
  · rw [atChannel_invalid ha]
    rfl
  · rw [atChannel_valid ha]
    rfl

/-- Settles O58 (R89, R33): `STATUS` depends on the response alone; `DATA` is `GET`'s byte, and no other producer
operation returns one. -/
theorem responseWordFields : Obligations.ResponseWordFields := by
  intro i s t hi h
  cases i with
  | get a =>
    have hr := exec_get_response h
    by_cases ha : 1 ≤ a ∧ a ≤ 512
    · rw [if_pos ha] at hr
      exact ⟨_, hr, responseWord_status _, (responseWord_data_value _).trans (if_pos ha).symm⟩
    · rw [if_neg ha] at hr
      exact ⟨_, hr, responseWord_status _, responseWord_data_invalidAddress.trans (if_neg ha).symm⟩
  | _ =>
    rcases exec_write_response hi nofun h with hr | hr
    · exact ⟨_, hr, responseWord_status _, responseWord_data_ok⟩
    · exact ⟨_, hr, responseWord_status _, responseWord_data_invalidAddress⟩

end Sys2Proof.Machine
end

section
/-! SUPPORT. The arithmetic of the operands (spec/40_producer_ops.md R116): a byte survives the clamp, and the average
and the blend as integers. -/

namespace Sys2Proof.Machine

/-- A byte survives the clamp. -/
theorem clamp8_byte (b : Byte) : clamp8 (b.toNat : Int) = b := by
  have hclamp := clamp8_toNat b.toNat
  have hb := b.isLt
  apply BitVec.eq_of_toNat_eq
  omega

theorem clamp8_mono {v w : Int} (h : v ≤ w) : (clamp8 v).toNat ≤ (clamp8 w).toNat := by
  have hv := clamp8_toNat v
  have hw := clamp8_toNat w
  omega

theorem clamp8_of_range {v : Int} (h0 : 0 ≤ v) (h255 : v ≤ 255) : ((clamp8 v).toNat : Int) = v := by
  rw [clamp8_toNat, min_eq_right h255, max_eq_right h0]

theorem blend_toNat (r g b : Int) : ((blend r g b).toNat : Int) =
    (max 0 (min 255 r) + max 0 (min 255 g) + max 0 (min 255 b)) / 3 := by
  rw [blend, average_toNat, ← clamp8_toNat r, ← clamp8_toNat g, ← clamp8_toNat b]
  push_cast
  rfl

/-- Settles O15 (R116): the clamp and the average as integers, and a third of a sum of three lies between the least and
the greatest of them. -/
theorem clampAndAverageLaws : Obligations.ClampAndAverageLaws := by
  refine ⟨fun v => clamp8_byte (clamp8 v), fun _ _ h => clamp8_mono h, fun _ h0 h255 => clamp8_of_range h0 h255,
    fun x y z => ⟨average_toNat x y z, ?_, ?_⟩⟩
  all_goals
    rw [average_toNat]
    omega

end Sys2Proof.Machine
end

section
/-! SUPPORT. The producer operations (spec/40_producer_ops.md R110 to R115). `SET` and `BLEND_ONE` are one channel
write, `SET_ALL` and `BLEND_ALL` one fill, each with the byte it stores as a parameter; and what an operation does is
fixed by the Channel Buffer alone. -/

namespace Sys2Proof.Machine

/-! ### One channel -/

theorem validAddress_eq_false {a : Int} : validAddress a = false ↔ a < 1 ∨ 512 < a := by
  rw [← Bool.not_eq_true, validAddress_iff]
  omega

/-- An operation that writes one channel: an invalid address changes nothing but the response, and at a valid one the
byte is stored there and nowhere else. -/
theorem exec_stores {i : Instr} {a : Int} {v : Byte} {x : Int} {s : State}
    (hi : exec i s = .next (writeChannel a v s)) (hv : (v.toNat : Int) = x) :
    (a < 1 ∨ 512 < a → exec i s = .next { s with response := some .invalidAddress }) ∧
    (1 ≤ a ∧ a ≤ 512 → ∃ t, exec i s = .next t ∧ t = { s with cb := t.cb, response := some .ok } ∧
      ((readCb t a.toNat).toNat : Int) = x ∧ ∀ k, k ≠ a.toNat → readCb t k = readCb s k) := by
  rw [hi, writeChannel]
  constructor
  · intro ha
    rw [atChannel_invalid (validAddress_eq_false.mpr ha)]
    rfl
  · intro ha
    rw [atChannel_valid (validAddress_iff.mpr ha)]
    refine ⟨_, rfl, rfl, ?_, fun k hk => Memory.read_write_other s.cb v hk⟩
    calc ((readCb (writeCb a.toNat v s) a.toNat).toNat : Int)
        = v.toNat := by rw [readCb_writeCb, if_pos rfl]
      _ = x := hv

/-- Settles O9 (R110): the decoder reads the operands from their fields, and `SET` writes one channel with the clamped
value. -/
theorem setStoresClampedValue : Obligations.SetStoresClampedValue :=
  ⟨fun _ hw => decode_of_fieldOpc (i := .set 0 0) hw,
    fun a v s => exec_stores (exec_set_eq_writeChannel a v s) (clamp8_toNat v)⟩

/-- Settles O12 (R113, decision D19): `BLEND_ONE` writes one channel with the blend. -/
theorem blendOneStoresTruncatedAverage : Obligations.BlendOneStoresTruncatedAverage := fun a r g b s =>
  exec_stores (exec_blendOne_eq_writeChannel a r g b s) (blend_toNat r g b)

/-- Settles O10 (R111, decision D18): the address check decides between the working byte and the rejection. -/
theorem getReturnsChannelByte : Obligations.GetReturnsChannelByte := by
  intro a s
  rw [exec_get]
  constructor
  · intro ha
    rw [atChannel_invalid (validAddress_eq_false.mpr ha)]
    rfl
  · intro ha
    rw [atChannel_valid (validAddress_iff.mpr ha)]
    rfl

/-! ### Every channel -/

/-- An operation that fills the Channel Buffer stores the byte at every channel and changes nothing else. -/
theorem exec_fills {i : Instr} {v : Byte} {x : Int} {s : State}
    (hi : exec i s = .next (respond .ok (fillCb v s))) (hv : (v.toNat : Int) = x) :
    ∃ t, exec i s = .next t ∧ t = { s with cb := t.cb, response := some .ok } ∧
      ∀ a, 1 ≤ a → a ≤ 512 → ((readCb t a).toNat : Int) = x := by
  refine ⟨_, hi, rfl, fun a h1 h512 => ?_⟩
  calc ((readCb (fillCb v s) a).toNat : Int)
      = v.toNat := by rw [readCb_fillCb, if_pos ⟨h1, h512⟩]
    _ = x := hv

/-- Settles O11 (R112): `SET_ALL` fills the Channel Buffer with the clamped value. -/
theorem setAllFillsEveryChannel : Obligations.SetAllFillsEveryChannel :=
  ⟨fun _ hw => decode_of_fieldOpc (i := .setAll 0) hw, fun v s => exec_fills (exec_setAll v s) (clamp8_toNat v)⟩

/-- Settles O13 (R114, decision D19): `BLEND_ALL` fills the Channel Buffer with the blend. -/
theorem blendAllFillsEveryChannel : Obligations.BlendAllFillsEveryChannel := fun r g b s =>
  exec_fills (exec_blendAll r g b s) (blend_toNat r g b)

/-! ### What an operation reads -/

/-- On one channel: where the new buffer and the response at a valid address are the same in every state with Channel
Buffer `c`, so are those of the checked operation. -/
theorem atChannel_of_cb {a : Int} {c m : Memory} {r : Response} {op : Nat → State → State}
    (hop : ∀ u : State, u.cb = c → op a.toNat u = { u with cb := m, response := some r }) :
    ∃ m' r', ∀ u : State, u.cb = c →
      atChannel a u (fun k => op k u) = { u with cb := m', response := some r' } := by
  cases ha : validAddress a
  · refine ⟨c, .invalidAddress, fun u hu => ?_⟩
    rw [atChannel_invalid ha, ← hu]
    rfl
  · exact ⟨m, r, fun u hu => (atChannel_valid ha u _).trans (hop u hu)⟩

/-- The write of one channel reads the Channel Buffer alone. -/
theorem writeChannel_of_cb (a : Int) (v : Byte) (c : Memory) :
    ∃ m r, ∀ u : State, u.cb = c → writeChannel a v u = { u with cb := m, response := some r } := by
  have hwrite : ∀ u : State, u.cb = c → respond .ok (writeCb a.toNat v u) =
      { u with cb := c.write a.toNat v, response := some .ok } := by
    rintro u rfl
    rfl
  exact atChannel_of_cb (op := fun k u => respond .ok (writeCb k v u)) hwrite

/-- A producer operation completes in every state, and the Channel Buffer alone fixes the buffer it leaves and its
response (R115). -/
theorem exec_producer_of_cb {i : Instr} (hi : classOf i = .producer) (c : Memory) :
    ∃ m r, ∀ u : State, u.cb = c → exec i u = .next { u with cb := m, response := some r } := by
  cases i with
  | set a v =>
    obtain ⟨m, r, h⟩ := writeChannel_of_cb a (clamp8 v) c
    exact ⟨m, r, fun u hu => congrArg _ (h u hu)⟩
  | blendOne a x g b =>
    obtain ⟨m, r, h⟩ := writeChannel_of_cb a (blend x g b) c
    exact ⟨m, r, fun u hu => congrArg _ (h u hu)⟩
  | get a =>
    have hread : ∀ u : State, u.cb = c → respond (.value (readCb u a.toNat)) u =
        { u with cb := c, response := some (.value (c.read a.toNat)) } := by
      rintro u rfl
      rfl
    obtain ⟨m, r, h⟩ := atChannel_of_cb (op := fun k u => respond (.value (readCb u k)) u) hread
    exact ⟨m, r, fun u hu => congrArg _ (h u hu)⟩
  | setAll v => exact ⟨Memory.fill 1 512 (clamp8 v), .ok, fun _ _ => rfl⟩
  | blendAll x g b => exact ⟨Memory.fill 1 512 (blend x g b), .ok, fun _ _ => rfl⟩
  | _ => cases hi

/-- Settles O16 (R115): what an operation leaves is fixed by the Channel Buffer alone, and since a byte survives the
clamp, a blend is the setter called with the blend's byte. -/
theorem producerTouchesOnlyChannelBuffer : Obligations.ProducerTouchesOnlyChannelBuffer := by
  refine ⟨fun i s hi => ?_, fun a r g b s => ⟨?_, ?_⟩⟩
  · obtain ⟨m, r, h⟩ := exec_producer_of_cb hi s.cb
    exact ⟨_, h s rfl, rfl, h⟩
  · rw [exec_set_eq_writeChannel, clamp8_byte, exec_blendOne_eq_writeChannel]
  · rw [exec_setAll, clamp8_byte, exec_blendAll]

end Sys2Proof.Machine
end

section
/-! SUPPORT. The frame-state machine, event by event (spec/41_frame_state_machine.md R130 to R135): each event as one
equation per case, then the arrows of the transition table each event can take. -/

namespace Sys2Proof.Machine

/-! ### `TICK` -/

/-- The frame-start case (R130). -/
theorem tickWith_of_rest (p : Params) {s : State} (hfs : s.fs = .idle) (htx : s.tx = .idle) :
    tickWith p s = startFrame p s := by
  rw [tickWith_eq_ite, if_pos hfs, if_neg (by simp [busy_eq_false.mpr htx])]

/-- A busy transmitter holds the frame start back (decision D4). -/
theorem tickWith_of_idle_busy (p : Params) {s : State} (hfs : s.fs = .idle) (hb : busy s = true) :
    tickWith p s = s := by
  rw [tickWith_eq_ite, if_pos hfs, if_pos hb]

/-- A frame in progress that is not stalled goes on. -/
theorem tickWith_of_not_stalled {p : Params} {s : State} (hfs : s.fs ≠ .idle) (hst : stalled p s = false) :
    tickWith p s = s := by
  rw [tickWith_eq_ite, if_neg hfs, if_neg (by simp [hst])]

/-- Outside `Idle` a `TICK` does nothing or recovers. -/
theorem tickWith_outside_idle (p : Params) {s : State} (hfs : s.fs ≠ .idle) :
    tickWith p s = s ∨ tickWith p s = recover .stalledFrame s := by
  rcases tickWith_cases p s with ⟨hidle, -⟩ | ⟨-, -, h⟩ | h
  · exact absurd hidle hfs
  · exact .inr h
  · exact .inl h

/-- The frame start leaves the snapshot in the Transmit Buffer. -/
theorem readTb_startFrame (p : Params) (s : State) (i : Nat) :
    readTb (startFrame p s) i = if 1 ≤ i ∧ i ≤ 512 then readCb s i else 0#8 :=
  readTb_takeSnapshot s i

/-- Settles O21 (R130, R59, R52): the frame start is one record update, and its snapshot reads as the start code and the
channels. -/
theorem tickStartsFrame : Obligations.TickStartsFrame := by
  intro s hfs htx
  refine ⟨startFrame Config.params s, ?_, startFrame_eq Config.params s, ?_, fun i h1 h512 => ?_,
    tBreakUs_ge Config.params⟩
  · rw [exec_tick, tickWith_of_rest Config.params hfs htx]
  · exact readTb_startFrame Config.params s 0
  · rw [readTb_startFrame, if_pos ⟨h1, h512⟩]

/-- Settles O22 (R130, R135): in the first two cases `TICK` is the identity; outside `Idle` it is the identity or
`RECOVER`, which only disarms and stops. -/
theorem tickBackpressure : Obligations.TickBackpressure := by
  refine ⟨fun s hfs hst => ?_, fun s hfs hb => ?_, fun s hfs => ⟨_, exec_tick s, ?_⟩⟩
  · rw [exec_tick, tickWith_of_not_stalled hfs hst]
  · rw [exec_tick, tickWith_of_idle_busy Config.params hfs hb]
  · rcases tickWith_outside_idle Config.params hfs with h | h <;> rw [h] <;> simp

/-! ### The two signals -/

/-- The end of a break as one record update (R131). -/
theorem endBreak_eq (d : Nat) (s : State) : enterFrame .mark (armTimer d (selectUart (driveHigh s))) =
    { s with
      lm := .uart, wire := s.wire ++ [.high s.now, .uartIdle s.now], tmr := .armed (s.now + d), fs := .mark } := by
  simp [enterFrame, armTimer, selectUart, driveHigh, emit]

/-- Settles O24 (R131): the end of a break is one record update. -/
theorem timerExpiredEndsBreak : Obligations.TimerExpiredEndsBreak := by
  intro s hfs
  rw [exec_timerExpired, timerExpiredWith_eq_ite, if_pos hfs, endBreak_eq]

/-- In `Mark` the transmitter alone decides between the start and the refusal (R131, R183). -/
theorem timerExpiredWith_of_mark (p : Params) {s : State} (hfs : s.fs = .mark) : timerExpiredWith p s =
    if busy s = true then .refused .transmitWhileBusy
    else .next (enterFrame .data (startTransmit (disarmTimer s))) := by
  rw [timerExpiredWith_eq_ite, if_neg (by simp [hfs]), if_pos hfs]

/-- Settles O25 (R131, R183, decision D25): `timerExpiredWith_of_mark` with the transmitter idle, and with it busy. -/
theorem timerExpiredStartsTransmission : Obligations.TimerExpiredStartsTransmission := by
  refine ⟨fun s hfs htx => ?_, fun s hfs htx => ?_⟩
  · rw [exec_timerExpired, timerExpiredWith_of_mark _ hfs, if_neg (by simp [busy_eq_false.mpr htx])]
    rfl
  · rw [exec_timerExpired, timerExpiredWith_of_mark _ hfs, if_pos ((Bool.not_eq_false _).mp (mt busy_eq_false.mp htx))]

/-- Settles O26 (R132): in `Data` the signal is the expected one. -/
theorem txCompleteEndsFrame : Obligations.TxCompleteEndsFrame := by
  intro s hfs
  rw [exec_txComplete, txCompleted_eq_ite, if_pos hfs]
  rfl

/-- Settles O51 (T6, R135): the four events, each in the state the one before it leaves. -/
theorem injectedSignalsCompleteACycle : Obligations.InjectedSignalsCompleteACycle := by
  intro s hfs htx
  have htick : exec .tick s = .next (startFrame Config.params s) := by
    rw [exec_tick, tickWith_of_rest Config.params hfs htx]
  exact ⟨_, _, _, _, htick, timerExpiredEndsBreak _ rfl, timerExpiredStartsTransmission.1 _ rfl htx,
    txCompleteEndsFrame _ rfl, rfl, rfl, rfl, rfl, rfl, rfl, rfl, rfl, rfl, rfl⟩

/-! ### `RESET` -/

/-- The wire log with the abort that a busy transmitter logs, as the log and what it gains. -/
theorem wire_abortIfBusy (s : State) : (if busy s = true then s.wire ++ [.abort s.now] else s.wire) =
    s.wire ++ if s.tx = .idle then [] else [.abort s.now] := by
  cases hb : busy s
  · simp [busy_eq_false.mp hb]
  · obtain ⟨i, tn, htx⟩ := busy_eq_true.mp hb
    simp [htx]

/-- Settles O30 (R134, decisions D20, D31): the fields of `RESET`'s record update. -/
theorem resetRestoresRegisters : Obligations.ResetRestoresRegisters := by
  intro s
  refine ⟨resetBlock s, exec_reset s, fun a => ?_, resetBlock_fs s, resetBlock_fc s, resetBlock_flog s,
    resetBlock_tmr s, resetBlock_tx s, resetBlock_lm s, resetBlock_now s, resetBlock_response s, resetBlock_trace s, ?_⟩
  · rw [readCb, resetBlock_cb]
    rfl
  · rw [resetBlock_wire, wire_abortIfBusy]

/-! ### The arrows of the transition table -/

/-- The Frame State falls back to `Idle` by a counted fault (R133, R135). -/
def FaultsToIdle (s t : State) : Prop := t.fs = .idle ∧ t.fc = s.fc + 1

theorem faultsToIdle_recover (c : FaultCause) (s : State) : FaultsToIdle s (recover c s) :=
  ⟨recover_fs c s, recover_fc c s⟩

theorem tickWith_arrow (p : Params) (s : State) :
    (tickWith p s).fs = s.fs ∨ (s.fs = .idle ∧ (tickWith p s).fs = .brk ∧ (tickWith p s).fc = s.fc) ∨
    FaultsToIdle s (tickWith p s) := by
  rcases tickWith_cases p s with ⟨hfs, -, h⟩ | ⟨-, -, h⟩ | h <;> rw [h]
  · exact .inr (.inl ⟨hfs, rfl, rfl⟩)
  · exact .inr (.inr (faultsToIdle_recover .stalledFrame s))
  · exact .inl rfl

theorem timerExpiredWith_arrow {p : Params} {s t : State} (h : timerExpiredWith p s = .next t) :
    (s.fs = .brk ∧ t.fs = .mark ∧ t.fc = s.fc) ∨ (s.fs = .mark ∧ t.fs = .data ∧ t.fc = s.fc) ∨ FaultsToIdle s t := by
  rcases timerExpiredWith_next h with ⟨hfs, rfl⟩ | ⟨hfs, -, rfl⟩ | ⟨-, rfl⟩
  · exact .inl ⟨hfs, rfl, rfl⟩
  · exact .inr (.inl ⟨hfs, rfl, rfl⟩)
  · exact .inr (.inr (faultsToIdle_recover .unexpectedSignal s))

theorem txCompleted_arrow (s : State) :
    (s.fs = .data ∧ (txCompleted s).fs = .idle ∧ (txCompleted s).fc = s.fc) ∨ FaultsToIdle s (txCompleted s) := by
  rcases txCompleted_cases s with ⟨hfs, h⟩ | ⟨-, h⟩ <;> rw [h]
  · exact .inl ⟨hfs, rfl, rfl⟩
  · exact .inr (faultsToIdle_recover .unexpectedSignal s)

/-- No command at an internal port moves the Frame State. -/
theorem runMove_internal_fs {m : Move} {s t : State} (h : runMove m s = .next t) (hm : m.internal = true) :
    t.fs = s.fs := by
  rcases runMove_internal h hm with ⟨d, rfl⟩ | rfl | rfl | rfl | rfl | ⟨-, rfl⟩ | rfl <;> simp

/-- An arrow of the table, taken by the move `m` (R135). -/
def TakesArrow (m : Move) (s t : State) : Prop :=
  (s.fs = .idle ∧ t.fs = .brk ∧ m.presents .tick = true ∧ t.fc = s.fc) ∨
  (s.fs = .brk ∧ t.fs = .mark ∧ (m = .expire ∨ m.presents .timerExpired = true) ∧ t.fc = s.fc) ∨
  (s.fs = .mark ∧ t.fs = .data ∧ (m = .expire ∨ m.presents .timerExpired = true) ∧ t.fc = s.fc) ∨
  (s.fs = .data ∧ t.fs = .idle ∧ (m = .txDone ∨ m.presents .txComplete = true) ∧ t.fc = s.fc) ∨
  FaultsToIdle s t ∨ (t.fs = .idle ∧ m.presents .reset = true)

/-- The timer's signal, genuine or injected. -/
theorem takesArrow_timerExpired {m : Move} {p : Params} {s t : State}
    (hm : m = .expire ∨ m.presents .timerExpired = true) (h : timerExpiredWith p s = .next t) : TakesArrow m s t := by
  rcases timerExpiredWith_arrow h with ⟨hs, ht, hfc⟩ | ⟨hs, ht, hfc⟩ | hfault
  · exact .inr (.inl ⟨hs, ht, hm, hfc⟩)
  · exact .inr (.inr (.inl ⟨hs, ht, hm, hfc⟩))
  · exact .inr (.inr (.inr (.inr (.inl hfault))))

/-- The completion signal, genuine or injected. -/
theorem takesArrow_txComplete {m : Move} (hm : m = .txDone ∨ m.presents .txComplete = true) (s : State) :
    TakesArrow m s (txCompleted s) := by
  rcases txCompleted_arrow s with ⟨hs, ht, hfc⟩ | hfault
  · exact .inr (.inr (.inr (.inl ⟨hs, ht, hm, hfc⟩)))
  · exact .inr (.inr (.inr (.inr (.inl hfault))))

/-- Settles O29 (R135): the five events of the table take its arrows; every other move leaves the Frame State. -/
theorem frameStateFollowsCycle : Obligations.FrameStateFollowsCycle := by
  intro m s t hrun hne
  show TakesArrow m s t
  cases hm : m.internal
  · rcases runMove_next hrun hm with ⟨n, -, -, rfl⟩ | ⟨hexp, -, ht⟩ | ⟨i, tn, hi, -, -, -, rfl⟩ | ⟨hdone, -, rfl⟩ |
      ⟨mem, r, rfl, -⟩ | ⟨htick, rfl⟩ | ⟨hte, ht⟩ | ⟨htc, rfl⟩ | ⟨hreset, rfl⟩
    · exact absurd rfl hne
    · exact takesArrow_timerExpired (s := disarmTimer s) (.inl hexp) ht
    · exact absurd rfl hne
    · exact takesArrow_txComplete (.inl hdone) (finishTransmit s)
    · exact absurd rfl hne
    · rcases tickWith_arrow Config.params s with hsame | ⟨hs, ht, hfc⟩ | hfault
      · exact absurd hsame hne
      · exact .inl ⟨hs, ht, htick, hfc⟩
      · exact .inr (.inr (.inr (.inr (.inl hfault))))
    · exact takesArrow_timerExpired (.inr hte) ht
    · exact takesArrow_txComplete (.inr htc) s
    · exact .inr (.inr (.inr (.inr (.inr ⟨resetBlock_fs s, hreset⟩))))
  · exact absurd (runMove_internal_fs hrun hm) hne

end Sys2Proof.Machine
end

section
/-! SUPPORT. The cycle of 517 places (spec/41_frame_state_machine.md R136, spec/20_memory.md R62): the place depends on
`FS` and `TX` alone; in a fault-free state each genuine event finds the phase that expects it and carries the cycle on by
one, and every other move of an agent leaves the place. -/

namespace Sys2Proof.Safety

open Sys2Proof.Machine

/-! ### The place in the cycle -/

theorem cyclePosition_congr {s t : State} (hfs : t.fs = s.fs) (htx : t.tx = s.tx) :
    cyclePosition t = cyclePosition s := by
  simp only [cyclePosition, hfs, htx]

theorem cyclePosition_idle {s : State} (h : s.fs = .idle) : cyclePosition s = 0 := by simp [cyclePosition, h]

theorem cyclePosition_brk {s : State} (h : s.fs = .brk) : cyclePosition s = 1 := by simp [cyclePosition, h]

theorem cyclePosition_mark {s : State} (h : s.fs = .mark) : cyclePosition s = 2 := by simp [cyclePosition, h]

theorem cyclePosition_data {s : State} {i : Fin 514} {tn : Nat} (h : s.fs = .data) (htx : s.tx = .busy i tn) :
    cyclePosition s = 3 + i.val := by simp [cyclePosition, h, htx]

theorem cyclePosition_lt (s : State) : cyclePosition s < 517 := by
  unfold cyclePosition
  split
  · decide
  · decide
  · decide
  · split
    · decide
    · omega

theorem cyclePosition_eq_zero {s : State} : cyclePosition s = 0 ↔ s.fs = .idle := by
  unfold cyclePosition
  cases s.fs <;> cases s.tx <;> simp

/-! ### What an agent's request presents -/

/-- `RESET` is the one operation of class S. -/
theorem eq_reset_of_system {i : Instr} (hi : classOf i = .system) : i = .reset := by
  cases i with
  | reset => rfl
  | _ => cases hi

/-- `TICK` and the two signals are the operations of class F. -/
theorem eq_tick_or_signal_of_frame {i : Instr} (hi : classOf i = .frame) :
    i = .tick ∨ i = .timerExpired ∨ i = .txComplete := by
  cases i with
  | tick => exact .inl rfl
  | timerExpired => exact .inr (.inl rfl)
  | txComplete => exact .inr (.inr rfl)
  | _ => cases hi

/-- What a request presents is what its word decodes to. -/
theorem presents_request {c : Context} {w : RequestWord} {i : Instr} (hw : decode w = .op i) (j : Instr) :
    (Move.request c w).presents j = decide (i = j) := by
  simp [Move.presents, hw]

/-! ### The events -/

section Events
variable {s t : State} (h : FaultFree s)
include h

/-- With no `Data` phase nothing is being sent. -/
theorem FaultFree.txIdle (hfs : s.fs ≠ .data) : s.tx = .idle :=
  busy_eq_false.mp (Bool.eq_false_iff.mpr (mt h.dataBusy.mpr hfs))

/-- While something is being sent the phase is `Data`. -/
theorem FaultFree.inData {i : Fin 514} {tn : Nat} (htx : s.tx = .busy i tn) : s.fs = .data :=
  h.dataBusy.mpr (busy_eq_true.mpr ⟨i, tn, htx⟩)

/-- The genuine timer signal carries `Break` to `Mark` and `Mark` to the first slot. -/
theorem cyclePosition_expire {p : Params} (hrun : expireWith p s = .next t) :
    cyclePosition t = (cyclePosition s + 1) % 517 := by
  obtain ⟨he, ht⟩ := expireWith_next hrun
  obtain ⟨d, htmr, -⟩ := expireEnabled_iff.mp he
  have hphase : s.fs = .brk ∨ s.fs = .mark := h.phaseArmed.mpr (armed_eq_true.mpr ⟨d, htmr⟩)
  rcases timerExpiredWith_next ht with ⟨hfs, rfl⟩ | ⟨hfs, -, rfl⟩ | ⟨hfs, -⟩
  · rw [cyclePosition_mark rfl, cyclePosition_brk (s := s) hfs]
  · rw [cyclePosition_data rfl rfl, cyclePosition_mark (s := s) hfs]
    rfl
  · rw [disarmTimer_fs] at hfs
    rcases hphase with hp | hp <;> simp [hp] at hfs

/-- A slot carries the cycle on to the next index. -/
theorem cyclePosition_txSlot (hrun : txSlot s = .next t) : cyclePosition t = (cyclePosition s + 1) % 517 := by
  obtain ⟨i, tn, hi, htx, -, rfl⟩ := txSlot_next hrun
  have hfs : s.fs = .data := h.inData htx
  rw [cyclePosition_data (s := startSlot i hi s) hfs rfl, cyclePosition_data hfs htx]
  simp only [nextIndex]
  omega

/-- The genuine completion signal closes the cycle. -/
theorem cyclePosition_txDone (hrun : txDone s = .next t) : cyclePosition t = (cyclePosition s + 1) % 517 := by
  obtain ⟨hd, rfl⟩ := txDone_next hrun
  obtain ⟨tn, htx, -⟩ := doneEnabled_iff.mp hd
  have hfs : s.fs = .data := h.inData htx
  have hend : txCompleted (finishTransmit s) = enterFrame .idle (finishTransmit s) := by
    rw [txCompleted_eq_ite, finishTransmit_fs, if_pos hfs]
  rw [hend, cyclePosition_idle rfl, cyclePosition_data hfs htx]
  rfl

/-- A `TICK` carries `Idle` to `Break`, and leaves a frame in progress that is not stalled. -/
theorem cyclePosition_tick {p : Params} (hstall : s.fs ≠ .idle → stalled p s = false) :
    cyclePosition (tickWith p s) = if s.fs = .idle then (cyclePosition s + 1) % 517 else cyclePosition s := by
  by_cases hfs : s.fs = .idle
  · rw [if_pos hfs, tickWith_of_rest p hfs (h.txIdle (by simp [hfs])), cyclePosition_idle hfs, cyclePosition_brk rfl]
  · rw [if_neg hfs, tickWith_of_not_stalled hfs (hstall hfs)]

/-- A request of an agent, neither a signal nor a `RESET`, is a `TICK` or a producer operation. -/
theorem cyclePosition_request {c : Context} {w : RequestWord} (hm : (Move.request c w).internal = false)
    (hsp : (Move.request c w).spurious = false) (hreset : (Move.request c w).presents .reset = false)
    (hstall : (Move.request c w).presents .tick = true → s.fs ≠ .idle → stalled Config.params s = false)
    (hrun : runRequest c w s = .next t) :
    cyclePosition t =
      if movesCycle (.request c w) s then (cyclePosition s + 1) % 517 else cyclePosition s := by
  obtain ⟨i, hw, hc, hexec⟩ := runRequest_next hrun
  have hcp : c ≠ .commandPort := by simpa [Move.internal] using hm
  simp only [movesCycle, Move.spurious, presents_request hw, Bool.or_eq_false_iff, Bool.and_eq_true,
    decide_eq_false_iff_not, decide_eq_true_eq] at hsp hreset hstall ⊢
  rcases classOf_of_mayRequest hcp hc with hi | hi | hi
  · exact absurd (eq_reset_of_system hi) hreset
  · obtain ⟨mem, r, hprod, -⟩ := exec_producer hi s
    obtain rfl := Host.Outcome.next.inj (hprod.symm.trans hexec)
    rw [if_neg (by rintro ⟨rfl, -⟩; cases hi)]
    rfl
  · obtain rfl : i = .tick := (eq_tick_or_signal_of_frame hi).resolve_right (not_or.mpr hsp)
    obtain rfl := Host.Outcome.next.inj hexec
    simpa using cyclePosition_tick h (hstall rfl)

end Events

/-- Settles O56 (R136, R62, R13): event by event; the Fault Counter is 0 before and after, since the state stays
fault-free. -/
theorem cycleAdvancesInOrder : Obligations.CycleAdvancesInOrder := by
  intro m s t h hm hsp hreset hstall hrun
  refine ⟨?_, (faultFree_runMove h hrun hm hsp hstall).noFault.trans h.noFault.symm⟩
  cases m with
  | advance n =>
    obtain ⟨-, rfl⟩ := advanceWith_next hrun
    rfl
  | expire => exact cyclePosition_expire h hrun
  | txSlot => exact cyclePosition_txSlot h hrun
  | txDone => exact cyclePosition_txDone h hrun
  | request c w => exact cyclePosition_request h hm hsp hreset hstall hrun

end Sys2Proof.Safety
end

section
/-! SUPPORT. A frame in progress can finish (spec/41_frame_state_machine.md R136): in every phase one autonomous step is
due at a known time, that time may be waited for, and taking the step carries the cycle on by one place
(`cycleAdvancesInOrder`); the induction is on the places that are left. -/

namespace Sys2Proof.Safety

open Sys2Proof.Machine

/-! ### Waiting -/

/-- Time may pass up to `d`: no timer is armed for earlier. -/
def MayWaitUntil (d : Nat) (s : State) : Prop := s.tmr = .disarmed ∨ s.tmr = .armed d

/-- `ADVANCE` is held back by an armed timer and a finite jitter bound alone (R164, R165). -/
theorem advanceEnabled_iff {p : Params} {n : Nat} {s : State} : advanceEnabled p n s = true ↔
    1 ≤ n ∧ ∀ d j, s.tmr = .armed d → p.jTmrUs = some j → s.now + n ≤ d + j := by
  unfold advanceEnabled
  split <;> simp_all

theorem runMove_advance_of_mayWait {d : Nat} {s : State} (hw : MayWaitUntil d s) (hd : s.now < d) :
    runMove (.advance (d - s.now)) s = .next (passTime (d - s.now) s) := by
  have hen : advanceEnabled Config.params (d - s.now) s = true := by
    refine advanceEnabled_iff.mpr ⟨by omega, fun d' j hd' _ => ?_⟩
    rcases hw with hw | hw
    · simp [hw] at hd'
    · obtain rfl := Timer.armed.inj (hw.symm.trans hd')
      omega
  rw [runMove_advance, advanceWith, if_pos hen]

/-- The moves that wait until `d`, at most one. -/
def waitUntil (d : Nat) (s : State) : List Move := if s.now < d then [.advance (d - s.now)] else []

/-- The waiting is one passage of time. -/
theorem runMoves_waitUntil {d : Nat} {s : State} (hw : MayWaitUntil d s) :
    runMoves (waitUntil d s) s = .next (passTime (d - s.now) s) := by
  unfold waitUntil
  split
  · rw [runMoves_cons, runMove_advance_of_mayWait hw ‹_›, onNext_of_next, runMoves_nil]
  · rw [runMoves_nil, Nat.sub_eq_zero_of_le (Nat.le_of_not_lt ‹_›)]
    rfl

theorem faultFree_passTime {s : State} (h : FaultFree s) (n : Nat) : FaultFree (passTime n s) :=
  faultFree_iff.mpr ⟨consistent_passTime h.consistent n, (faultFree_iff.mp h).2.of_same rfl rfl rfl rfl⟩

/-! ### The step that is due -/

/-- The move `m` is the agents' next step of the frame: once `d` is reached it is enabled. -/
structure Due (m : Move) (d : Nat) (s : State) : Prop where
  autonomous : autonomous m = true
  instant : passesTime m = false
  mayWait : MayWaitUntil d s
  runs : ∀ n, d ≤ s.now + n → ∃ t, runMove m (passTime n s) = .next t

section Due
variable {s : State} (h : FaultFree s)
include h

/-- In `Break` and `Mark` the timer's signal is due at the deadline. -/
theorem due_expire (hfs : s.fs = .brk ∨ s.fs = .mark) : ∃ d, Due .expire d s := by
  obtain ⟨d, htmr⟩ := armed_eq_true.mp (h.phaseArmed.mp hfs)
  refine ⟨d, rfl, rfl, .inr htmr, fun n hn => ?_⟩
  have hen : expireEnabled (passTime n s) = true := expireEnabled_iff.mpr ⟨d, htmr, hn⟩
  rw [runMove_expire, expireWith, if_pos hen]
  rcases hfs with hfs | hfs
  · exact ⟨_, (timerExpiredWith_eq_ite _ _).trans (if_pos hfs)⟩
  · have htx : busy (disarmTimer (passTime n s)) = false := busy_eq_false.mpr (h.consistent.markSilent hfs)
    exact ⟨_, (timerExpiredWith_of_mark (s := disarmTimer (passTime n s)) _ hfs).trans (if_neg (by simp [htx]))⟩

/-- In `Data` a slot or the completion is due when the slot before it is over. -/
theorem due_inData (hfs : s.fs = .data) : ∃ m d, Due m d s := by
  obtain ⟨i, tn, htx⟩ := busy_eq_true.mp (h.dataBusy.mp hfs)
  have hwait : MayWaitUntil tn s := .inl (h.consistent.dataDisarmed hfs)
  by_cases hi : i.val ≤ 512
  · exact ⟨.txSlot, tn, rfl, rfl, hwait, fun n hn => ⟨_, txSlot_of_enabled (s := passTime n s) htx hi hn⟩⟩
  · obtain rfl : i = 513 := Fin.ext (by have := i.isLt; show i.val = 513; omega)
    refine ⟨.txDone, tn, rfl, rfl, hwait, fun n hn => ⟨txCompleted (finishTransmit (passTime n s)), ?_⟩⟩
    exact if_pos (doneEnabled_iff (s := passTime n s).mpr ⟨tn, htx, hn⟩)

theorem exists_due (hfs : s.fs ≠ .idle) : ∃ m d, Due m d s := by
  cases hf : s.fs with
  | idle => exact absurd hf hfs
  | brk => exact ⟨_, due_expire h (.inl hf)⟩
  | mark => exact ⟨_, due_expire h (.inr hf)⟩
  | data => exact due_inData h hf

end Due

/-- An autonomous step other than a passage of time presents no request and carries the cycle on. -/
theorem movesCycle_of_instant {m : Move} (ha : autonomous m = true) (hi : passesTime m = false) (s : State) :
    movesCycle m s = true ∧ m.internal = false ∧ ∀ i, m.presents i = false := by
  cases m with
  | request c w => cases ha
  | advance n => cases hi
  | expire => exact ⟨rfl, rfl, fun _ => rfl⟩
  | txSlot => exact ⟨rfl, rfl, fun _ => rfl⟩
  | txDone => exact ⟨rfl, rfl, fun _ => rfl⟩

/-- `t` stands one place after `s` in the cycle, without a fault, and with the same buffers. -/
structure OnePlaceOn (s t : State) : Prop where
  faultFree : FaultFree t
  place : cyclePosition t = (cyclePosition s + 1) % 517
  fc : t.fc = s.fc
  cb : t.cb = s.cb
  tb : t.tb = s.tb

/-- An autonomous step other than a passage of time takes a fault-free state one place on. -/
theorem onePlaceOn_of_instant {m : Move} {s t : State} (h : FaultFree s) (ha : autonomous m = true)
    (hi : passesTime m = false) (hrun : runMove m s = .next t) : OnePlaceOn s t := by
  obtain ⟨hmoves, hint, hpres⟩ := movesCycle_of_instant ha hi s
  have hsp : m.spurious = false := by simp [Move.spurious, hpres]
  have hstall : m.presents .tick = true → s.fs ≠ .idle → stalled Config.params s = false := by simp [hpres]
  obtain ⟨hplace, hfc⟩ := cycleAdvancesInOrder m s t h hint hsp (hpres .reset) hstall hrun
  rw [if_pos hmoves] at hplace
  refine ⟨faultFree_runMove h hrun hint hsp hstall, hplace, hfc, runMove_cb_of_autonomous hrun ha, ?_⟩
  rcases runMove_tb hrun with htb | ⟨htick, -⟩ | ⟨hreset, -⟩
  · exact htb
  · simp [hpres] at htick
  · simp [hpres] at hreset

theorem onePlaceOn_of_passTime {n : Nat} {s t : State} (h : OnePlaceOn (passTime n s) t) : OnePlaceOn s t :=
  ⟨h.faultFree, h.place, h.fc, h.cb, h.tb⟩

/-- Waiting and then taking the step that is due. -/
theorem Due.onePlaceOn {m : Move} {d : Nat} {s : State} (hdue : Due m d s) (h : FaultFree s) :
    ∃ t, runMoves (waitUntil d s ++ [m]) s = .next t ∧ OnePlaceOn s t := by
  obtain ⟨t, hrun⟩ := hdue.runs (d - s.now) (by omega)
  refine ⟨t, ?_, onePlaceOn_of_passTime
    (onePlaceOn_of_instant (faultFree_passTime h _) hdue.autonomous hdue.instant hrun)⟩
  rw [runMoves_append, runMoves_waitUntil hdue.mayWait, onNext_of_next, runMoves_cons, hrun, onNext_of_next,
    runMoves_nil]

/-! ### The rest of the frame -/

/-- The moves are autonomous steps with at most one passage of time before each, two for a place at most. -/
structure Schedule (places : Nat) (ms : List Move) : Prop where
  autonomous : ∀ m ∈ ms, autonomous m = true
  onePassage : onePassageEach ms
  length_le : ms.length ≤ 2 * places

theorem schedule_nil : Schedule 0 [] := ⟨by simp, .nil, le_rfl⟩

/-- One more place before a schedule. -/
theorem Schedule.cons {places : Nat} {ms : List Move} (hms : Schedule places ms) {m : Move}
    (ha : Safety.autonomous m = true) (hi : passesTime m = false) (d : Nat) (s : State) :
    Schedule (places + 1) (waitUntil d s ++ [m] ++ ms) := by
  have hchain : onePassageEach (m :: ms) := List.isChain_cons.mpr ⟨fun _ _ => .inl hi, hms.onePassage⟩
  have hall : ∀ x ∈ m :: ms, Safety.autonomous x = true := List.forall_mem_cons.mpr ⟨ha, hms.autonomous⟩
  have hlen := hms.length_le
  unfold waitUntil
  split
  · exact ⟨List.forall_mem_cons.mpr ⟨rfl, hall⟩, List.isChain_cons_cons.mpr ⟨.inr hi, hchain⟩, by simp; omega⟩
  · exact ⟨hall, hchain, by simp; omega⟩

/-- The rest of the frame, by induction on the places left before `Idle`. -/
theorem exists_schedule {places : Nat} {s : State} (h : FaultFree s) (hlt : places < 517)
    (hplaces : (cyclePosition s + places) % 517 = 0) : ∃ ms t, Schedule places ms ∧ runMoves ms s = .next t ∧
      FaultFree t ∧ t.fs = .idle ∧ t.cb = s.cb ∧ t.tb = s.tb := by
  have hpos := cyclePosition_lt s
  induction places generalizing s with
  | zero => exact ⟨[], s, schedule_nil, rfl, h, cyclePosition_eq_zero.mp (by omega), rfl, rfl⟩
  | succ places ih =>
    have hfs : s.fs ≠ .idle := fun hidle => by
      have := cyclePosition_idle hidle
      omega
    obtain ⟨m, d, hdue⟩ := exists_due h hfs
    obtain ⟨u, hrun, hu⟩ := hdue.onePlaceOn h
    have hplace := hu.place
    obtain ⟨ms, t, hms, hrest, ht, hidle, hcb, htb⟩ := ih hu.faultFree (by omega) (by omega) (cyclePosition_lt u)
    refine ⟨_, t, hms.cons hdue.autonomous hdue.instant d s, ?_, ht, hidle, hcb.trans hu.cb, htb.trans hu.tb⟩
    rw [runMoves_append, hrun, onNext_of_next, hrest]

/-- Settles O57 (R136): `exists_schedule` for the places left; no fault is counted, since both states are fault-free. -/
theorem frameInProgressCanFinish : Obligations.FrameInProgressCanFinish := by
  intro s h hfs
  have hlt := cyclePosition_lt s
  have hpos : cyclePosition s ≠ 0 := mt cyclePosition_eq_zero.mp hfs
  obtain ⟨ms, t, hms, hrun, ht, hidle, hcb, htb⟩ := exists_schedule (places := 517 - cyclePosition s) h (by omega)
    (by omega)
  exact ⟨ms, t, hms.autonomous, hms.onePassage, hms.length_le, hrun, hidle, ht.txIdle (by simp [hidle]),
    ht.noFault.trans h.noFault.symm, hcb, htb⟩

end Sys2Proof.Safety
end

section
/-! SUPPORT. The minimum durations on the wire (spec/42_timing_coordinator.md R163). `WireTimed` falls into the order of the
log, which `wireOrdered_runMove` keeps, and the durations: the log's own, and those the countdown in progress will bring.
The timer's genuine signal ends a break or a mark no earlier than its deadline, and the deadline was set the whole duration
after the break or the mark began; slot 0 comes after the end of the mark. -/

namespace Sys2Proof.Safety

open Sys2Proof.Machine

/-- The durations of `WireTimed`, without the order of the log. -/
structure KeepsDurations (p : Params) (s : State) : Prop where
  timed : adjacent (longEnough p) s.wire
  breakCountdown : s.fs = .brk →
    ∃ a d, s.wire.getLast? = some (.low a) ∧ s.tmr = .armed d ∧ a + p.tBreakUs ≤ d
  markCountdown : s.fs = .mark →
    ∃ a d, s.wire.getLast? = some (.uartIdle a) ∧ s.tmr = .armed d ∧ a + p.tMabUs ≤ d
  markOver : ∀ tn, s.tx = .busy 0 tn → ∃ a, s.wire.getLast? = some (.uartIdle a) ∧ a + p.tMabUs ≤ s.now

theorem wireTimed_iff {p : Params} {s : State} : WireTimed p s ↔ WireOrdered s ∧ KeepsDurations p s :=
  ⟨fun ⟨ho, h1, h2, h3, h4⟩ => ⟨ho, h1, h2, h3, h4⟩, fun ⟨ho, h1, h2, h3, h4⟩ => ⟨ho, h1, h2, h3, h4⟩⟩

/-- The timer is armed in `Break` and `Mark` alone (I1, I3). -/
theorem Consistent.counting {s : State} (h : Consistent s) {d : Nat} (htmr : s.tmr = .armed d) :
    s.fs = .brk ∨ s.fs = .mark := by
  cases hfs : s.fs with
  | idle => simp [h.idleDisarmed hfs] at htmr
  | brk => exact .inl rfl
  | mark => exact .inr rfl
  | data => simp [h.dataDisarmed hfs] at htmr

/-! ### Entries that keep the durations -/

/-- Only the end of a break and a slot are held to a duration. -/
theorem longEnough_of_free {p : Params} {x y : WireEntry} (hhigh : ∀ t, x ≠ .high t) (hslot : ∀ t i b, x ≠ .slot t i b) :
    longEnough p y x := by
  unfold longEnough
  split
  · exact (hhigh _ rfl).elim
  · exact (hslot _ _ _ rfl).elim
  · trivial

section Entries
variable {p : Params} {l : List WireEntry} (h : adjacent (longEnough p) l)
include h

/-- Any entry but the end of a break and a slot may be appended at any time. -/
theorem timed_append_free {x : WireEntry} (hhigh : ∀ t, x ≠ .high t) (hslot : ∀ t i b, x ≠ .slot t i b) :
    adjacent (longEnough p) (l ++ [x]) :=
  (adjacent_append_one l x).mpr ⟨h, fun _ _ => longEnough_of_free hhigh hslot⟩

/-- An entry that comes long enough after the last one. -/
theorem timed_append {x y : WireEntry} (hlast : l.getLast? = some y) (hxy : longEnough p y x) :
    adjacent (longEnough p) (l ++ [x]) :=
  (adjacent_append_one l x).mpr ⟨h, fun _ hz => Option.some.inj (hlast.symm.trans hz) ▸ hxy⟩

theorem timed_abortIfBusy (b : Bool) (t : Nat) : adjacent (longEnough p) (if b = true then l ++ [.abort t] else l) := by
  split
  · exact timed_append_free h nofun nofun
  · exact h

end Entries

/-! ### The operations -/

/-- The durations depend on `WIRE`, `FS`, `TMR`, `TX` and the time, which may go forward. -/
theorem KeepsDurations.of_same {p : Params} {s t : State} (h : KeepsDurations p s) (hwire : t.wire = s.wire)
    (hfs : t.fs = s.fs) (htmr : t.tmr = s.tmr) (htx : t.tx = s.tx) (hnow : s.now ≤ t.now) : KeepsDurations p t where
  timed := hwire ▸ h.timed
  breakCountdown hb := by rw [hwire, htmr]; exact h.breakCountdown (hfs ▸ hb)
  markCountdown hm := by rw [hwire, htmr]; exact h.markCountdown (hfs ▸ hm)
  markOver tn hb := by
    obtain ⟨a, hlast, ha⟩ := h.markOver tn (htx ▸ hb)
    exact ⟨a, hwire ▸ hlast, ha.trans hnow⟩

section FromLog
variable {p : Params} {s : State} (h : adjacent (longEnough p) s.wire)
include h

/-- With no frame on the line only the log counts. -/
theorem keepsDurations_idle (hfs : s.fs = .idle) (htx : s.tx = .idle) : KeepsDurations p s where
  timed := h
  breakCountdown hb := by simp [hfs] at hb
  markCountdown hm := by simp [hfs] at hm
  markOver tn hb := by simp [htx] at hb

theorem keepsDurations_recover (c : FaultCause) : KeepsDurations p (recover c s) :=
  keepsDurations_idle (recover_wire c s ▸ timed_abortIfBusy h (busy s) s.now) (recover_fs c s) (recover_tx c s)

theorem keepsDurations_resetBlock : KeepsDurations p (resetBlock s) :=
  keepsDurations_idle (resetBlock_wire s ▸ timed_append_free (timed_abortIfBusy h (busy s) s.now) nofun nofun)
    (resetBlock_fs s) (resetBlock_tx s)

/-- A frame start arms the timer for the duration of the break (R130). -/
theorem keepsDurations_startFrame (htx : s.tx = .idle) : KeepsDurations p (startFrame p s) where
  timed := timed_append_free h nofun nofun
  breakCountdown _ := ⟨s.now, s.now + p.tBreakUs, by simp, rfl, le_rfl⟩
  markCountdown := nofun
  markOver := by simp [htx]

/-- The end of a break that was long enough arms the timer for the duration of the mark (R131). -/
theorem keepsDurations_endBreak {a : Nat} (hlow : s.wire.getLast? = some (.low a)) (ha : a + p.tBreakUs ≤ s.now)
    (htx : s.tx = .idle) : KeepsDurations p (enterFrame .mark (armTimer p.tMabUs (selectUart (driveHigh s)))) where
  timed := timed_append_free (timed_append (x := .high s.now) h hlow ha) nofun nofun
  breakCountdown := nofun
  markCountdown _ := ⟨s.now, s.now + p.tMabUs, by simp, rfl, le_rfl⟩
  markOver := by simp [htx]

/-- The end of a mark that was long enough. -/
theorem keepsDurations_endMark {a : Nat} (hmark : s.wire.getLast? = some (.uartIdle a)) (ha : a + p.tMabUs ≤ s.now) :
    KeepsDurations p (enterFrame .data (startTransmit (disarmTimer s))) where
  timed := h
  breakCountdown := nofun
  markCountdown := nofun
  markOver _ _ := ⟨a, hmark, ha⟩

end FromLog

section Operations
variable {p : Params} {s t : State} (h : WireTimed p s)
include h

/-- The timer's genuine signal finds `Break` or `Mark`, and the duration over: its deadline stands for it. -/
theorem keepsDurations_expire (he : expireEnabled s = true) (ht : timerExpiredWith p (disarmTimer s) = .next t) :
    KeepsDurations p t := by
  obtain ⟨d, htmr, hd⟩ := expireEnabled_iff.mp he
  have hc : Consistent s := h.inOrder.consistent
  rcases timerExpiredWith_next ht with ⟨hfs, rfl⟩ | ⟨hfs, -, rfl⟩ | ⟨hfs, -⟩
  · obtain ⟨a, d', hlow, htmr', ha⟩ := h.breakCountdown hfs
    obtain rfl : d = d' := Timer.armed.inj (htmr.symm.trans htmr')
    exact keepsDurations_endBreak (s := disarmTimer s) h.timed hlow (ha.trans hd) (hc.breakSilent hfs)
  · obtain ⟨a, d', hmark, htmr', ha⟩ := h.markCountdown hfs
    obtain rfl : d = d' := Timer.armed.inj (htmr.symm.trans htmr')
    exact keepsDurations_endMark (s := disarmTimer s) h.timed hmark (ha.trans hd)
  · rw [disarmTimer_fs] at hfs
    rcases hc.counting htmr with hp | hp <;> simp [hp] at hfs

/-- Slot 0 comes after the mark is over, and every other slot directly after a slot. -/
theorem timed_startSlot {i : Fin 514} {tn : Nat} (hi : i.val ≤ 512) (htx : s.tx = .busy i tn) :
    adjacent (longEnough p) (startSlot i hi s).wire := by
  rw [startSlot_wire]
  by_cases h0 : i = 0
  · obtain ⟨a, hmark, ha⟩ := h.markOver tn (h0 ▸ htx)
    exact timed_append h.timed hmark ha
  · obtain ⟨a, b, hslot, -⟩ := h.inOrder.afterSlot i tn htx (Fin.val_ne_zero_iff.mpr h0)
    exact timed_append h.timed hslot trivial

theorem keepsDurations_startSlot {i : Fin 514} {tn : Nat} (hi : i.val ≤ 512) (htx : s.tx = .busy i tn) :
    KeepsDurations p (startSlot i hi s) where
  timed := timed_startSlot h hi htx
  breakCountdown hfs := nomatch htx.symm.trans (h.inOrder.consistent.breakSilent hfs)
  markCountdown hfs := nomatch htx.symm.trans (h.inOrder.consistent.markSilent hfs)
  markOver _ hz := absurd (congrArg Fin.val (Transmitter.busy.inj hz).1) (Nat.succ_ne_zero i.val)

theorem keepsDurations_txDone : KeepsDurations p (txCompleted (finishTransmit s)) := by
  have hdone : adjacent (longEnough p) (finishTransmit s).wire := timed_append_free h.timed nofun nofun
  rcases txCompleted_cases (finishTransmit s) with ⟨-, ht⟩ | ⟨-, ht⟩ <;> rw [ht]
  · exact keepsDurations_idle hdone rfl rfl
  · exact keepsDurations_recover hdone .unexpectedSignal

theorem keepsDurations_tickWith : KeepsDurations p (tickWith p s) := by
  rcases tickWith_cases p s with ⟨-, htx, ht⟩ | ⟨-, -, ht⟩ | ht <;> rw [ht]
  · exact keepsDurations_startFrame h.timed htx
  · exact keepsDurations_recover h.timed .stalledFrame
  · exact (wireTimed_iff.mp h).2

end Operations

/-- Every move of an agent but a spurious signal keeps the minimum durations, resets included. -/
theorem wireTimed_runMove {m : Move} {s t : State} (h : WireTimed Config.params s) (hrun : runMove m s = .next t)
    (hm : m.internal = false) (hsp : m.spurious = false) : WireTimed Config.params t := by
  obtain ⟨hnt, hnc⟩ : m.presents .timerExpired = false ∧ m.presents .txComplete = false := Bool.or_eq_false_iff.mp hsp
  have hs : KeepsDurations Config.params s := (wireTimed_iff.mp h).2
  refine wireTimed_iff.mpr ⟨wireOrdered_runMove h.inOrder hrun hm, ?_⟩
  rcases runMove_next hrun hm with ⟨n, -, -, rfl⟩ | ⟨-, he, ht⟩ | ⟨i, tn, hi, -, htx, -, rfl⟩ | ⟨-, -, rfl⟩ |
    ⟨mem, r, rfl, -⟩ | ⟨-, rfl⟩ | ⟨hte, -⟩ | ⟨htc, -⟩ | ⟨-, rfl⟩
  · exact hs.of_same rfl rfl rfl rfl (Nat.le_add_right ..)
  · exact keepsDurations_expire h he ht
  · exact keepsDurations_startSlot h hi htx
  · exact keepsDurations_txDone h
  · exact hs.of_same rfl rfl rfl rfl le_rfl
  · exact keepsDurations_tickWith h
  · simp [hnt] at hte
  · simp [hnc] at htc
  · exact keepsDurations_resetBlock h.timed

/-- Settles O47 (R163, R13): the step's move runs on a state with the same log and countdown and keeps the durations. -/
theorem stepKeepsMinimumDurations : Obligations.StepKeepsMinimumDurations := by
  intro s t hs hsp hstep
  obtain ⟨u, ⟨rest, n, hu⟩, hcu, hrun⟩ := step_next_agent hs.inOrder.consistent hstep
  obtain ⟨hos, hks⟩ := wireTimed_iff.mp hs
  have htu : WireTimed Config.params u := by
    subst hu
    exact wireTimed_iff.mpr ⟨hos.of_same hcu rfl rfl rfl le_rfl, hks.of_same rfl rfl rfl rfl le_rfl⟩
  rcases hrun with rfl | ⟨hm, hrun⟩
  · exact htu
  · exact wireTimed_runMove htu hrun hm hsp

end Sys2Proof.Safety
end

section
/-! SUPPORT. The timing coordinator (spec/42_timing_coordinator.md R160 to R165): when the timer's signal is enabled, what
`EXPIRE` does then and otherwise, and when time may pass. -/

namespace Sys2Proof.Machine

open Sys2Proof.Safety

/-! ### The countdown -/

theorem expireEnabled_of_armed {s : State} {d : Nat} (h : s.tmr = .armed d) : expireEnabled s = decide (d ≤ s.now) := by
  simp [expireEnabled, h]

/-- Before the deadline, and without one, `EXPIRE` is refused (R162). -/
theorem runMove_expire_of_not_due {s : State} (h : ∀ d, s.tmr = .armed d → s.now < d) :
    runMove .expire s = .refused .notEnabled := by
  have hdis : ¬ expireEnabled s = true := fun he => by
    obtain ⟨d, htmr, hd⟩ := expireEnabled_iff.mp he
    exact absurd hd (Nat.not_le_of_lt (h d htmr))
  exact if_neg hdis

/-- From the deadline on `EXPIRE` disarms the timer and delivers the signal (R162, decision D7). -/
theorem runMove_expire_of_due {s : State} {d : Nat} (htmr : s.tmr = .armed d) (hd : d ≤ s.now) :
    runMove .expire s = exec .timerExpired (disarmTimer s) :=
  if_pos (expireEnabled_iff.mpr ⟨d, htmr, hd⟩)

/-- In `Break` the signal ends the break (R131). -/
theorem timerExpiredWith_of_brk (p : Params) {s : State} (hfs : s.fs = .brk) :
    timerExpiredWith p s = .next (enterFrame .mark (armTimer p.tMabUs (selectUart (driveHigh s)))) :=
  (timerExpiredWith_eq_ite p s).trans (if_pos hfs)

/-- Settles O35 (R162, R163, decision D7): in a consistent state the timer is armed in `Break` and `Mark` alone
(`Consistent.counting`), and both expect the signal; in `Mark` the transmitter is idle (I2). -/
theorem expireDeliversExpectedSignal : Obligations.ExpireDeliversExpectedSignal := by
  refine ⟨fun s => runMove_expire_of_not_due, fun s d => runMove_expire_of_due, fun s d hc htmr hd => ?_⟩
  rw [runMove_expire_of_due htmr hd, exec_timerExpired]
  rcases hc.counting htmr with hfs | hfs
  · rw [timerExpiredWith_of_brk (s := disarmTimer s) _ hfs]
    exact ⟨_, rfl, rfl, .inl ⟨hfs, rfl⟩⟩
  · have hsilent : ¬ busy (disarmTimer s) = true := by simp [busy, hc.markSilent hfs]
    rw [timerExpiredWith_of_mark (s := disarmTimer s) _ hfs, if_neg hsilent]
    exact ⟨_, rfl, rfl, .inr ⟨hfs, rfl⟩⟩

/-- Settles O33 (R160, decision D9): the deadline of the new countdown is the present time and the duration. -/
theorem armReplacesCountdown : Obligations.ArmReplacesCountdown := by
  refine fun d s => ⟨rfl, fun t h => ?_⟩
  obtain rfl := Host.Outcome.next.inj h
  refine ⟨rfl, fun n => ?_⟩
  calc expireEnabled { armTimer d s with now := s.now + n }
      = decide (s.now + d ≤ s.now + n) := expireEnabled_of_armed rfl
    _ = decide (d ≤ n) := by simp

/-- A disarmed timer stays as it is (R161). -/
theorem disarmTimer_of_disarmed {s : State} (h : s.tmr = .disarmed) : disarmTimer s = s := by
  rw [disarmTimer, ← h]

/-- Settles O34 (R161): the word by its operation code; a disarmed timer has no deadline, so no signal is due at any
time. -/
theorem disarmCancelsCountdown : Obligations.DisarmCancelsCountdown := by
  refine ⟨fun w h => decode_of_fieldOpc (i := .disarm) h, fun s => ⟨rfl, fun h => ?_, fun t h => ?_⟩⟩
  · rw [exec_disarm, disarmTimer_of_disarmed h]
  · obtain rfl := Host.Outcome.next.inj h
    exact ⟨rfl, rfl, fun n => runMove_expire_of_not_due nofun⟩

/-! ### The passage of time -/

/-- Settles O36 (R164, R165, decision D12): both clauses are readings of `advanceEnabled_iff`. -/
theorem advanceRespectsJitterBound : Obligations.AdvanceRespectsJitterBound := by
  refine ⟨runMove_advance, fun p n s => ⟨fun hn hfree => if_pos (advanceEnabled_iff.mpr ⟨hn, fun d j htmr hj => ?_⟩),
    fun hout => if_neg fun hen => ?_⟩⟩
  · rcases hfree with h | h | ⟨d', j', htmr', hj', hle⟩
    · simp [h] at htmr
    · simp [h] at hj
    · obtain rfl := Timer.armed.inj (htmr.symm.trans htmr')
      obtain rfl := Option.some.inj (hj.symm.trans hj')
      exact hle
  · obtain ⟨hn, hbound⟩ := advanceEnabled_iff.mp hen
    rcases hout with h0 | ⟨d, j, htmr, hj, hlt⟩
    · omega
    · exact absurd (hbound d j htmr hj) (Nat.not_le_of_lt hlt)

end Sys2Proof.Machine
end

section
/-! SUPPORT. The line driver and the bulk transmitter (spec/43_line_driver.md R180 to R188): the level of the line mode by
mode, what the commands of class L do, when the transmitter's two steps are due, and the bits of a slot on the line. -/

namespace Sys2Proof.Machine

/-! ### The level of the line, one equation per case -/

theorem lineLevel_of_rawLow {s : State} (hlm : s.lm = .rawLow) : lineLevel s = .low := by
  rw [lineLevel, hlm]

theorem lineLevel_of_rawHigh {s : State} (hlm : s.lm = .rawHigh) : lineLevel s = .high := by
  rw [lineLevel, hlm]

theorem lineLevel_of_uart_idle {s : State} (hlm : s.lm = .uart) (htx : s.tx = .idle) : lineLevel s = .high := by
  rw [lineLevel, hlm, htx]

theorem lineLevel_of_uart_busy {s : State} {i : Fin 514} {tn : Nat} (hlm : s.lm = .uart) (htx : s.tx = .busy i tn) :
    lineLevel s = if 1 ≤ i.val ∧ s.now < tn then
      (slotBits (readTb s (i.val - 1))).getD ((s.now - (tn - 44)) / 4) .high else .high := by
  rw [lineLevel, hlm, htx]
  rfl

/-- Settles O38 (R180, R181, R182, R188): each command is one record update, and the mode it sets decides the level. -/
theorem lineModeCommands : Obligations.LineModeCommands := fun s =>
  ⟨⟨driveLow s, exec_setRawLow s, rfl, lineLevel_of_rawLow (driveLow_lm s)⟩,
    ⟨driveHigh s, exec_setRawHigh s, rfl, lineLevel_of_rawHigh (driveHigh_lm s)⟩,
    ⟨selectUart s, exec_setUart s, rfl, lineLevel_of_uart_idle (selectUart_lm s)⟩⟩

/-! ### The steps of the transmitter agent -/

/-- With no slot due, `TX_SLOT` is refused (R185). -/
theorem runMove_txSlot_of_not_due {s : State} (h : ∀ i tn, s.tx = .busy i tn → i.val = 513 ∨ s.now < tn) :
    runMove .txSlot s = .refused .notEnabled := by
  have hdis : ¬ slotEnabled s = true := fun he => by
    obtain ⟨i, tn, htx, hi, hn⟩ := slotEnabled_iff.mp he
    have := h i tn htx
    omega
  exact txSlot_of_not_enabled ((Bool.not_eq_true _).mp hdis)

/-- With no completion due, `TX_DONE` is refused (R186). -/
theorem runMove_txDone_of_not_due {s : State} (h : ∀ tn, s.tx = .busy 513 tn → s.now < tn) :
    runMove .txDone s = .refused .notEnabled := by
  have hdis : ¬ doneEnabled s = true := fun he => by
    obtain ⟨tn, htx, hn⟩ := doneEnabled_iff.mp he
    exact absurd hn (Nat.not_le_of_lt (h tn htx))
  exact if_neg hdis

/-- When the last slot is over, `TX_DONE` frees the transmitter and delivers the signal (R186, decision D7). -/
theorem runMove_txDone_of_due {s : State} {tn : Nat} (htx : s.tx = .busy 513 tn) (hn : tn ≤ s.now) :
    runMove .txDone s = exec .txComplete (finishTransmit s) :=
  if_pos (doneEnabled_iff.mpr ⟨tn, htx, hn⟩)

/-- Settles O41 (R185, decisions D27, D33): a due slot is `startSlot`, whose next index is one further. -/
theorem txSlotSendsNextByte : Obligations.TxSlotSendsNextByte :=
  ⟨fun _ i _ htx hi hn => ⟨nextIndex i hi, rfl, txSlot_of_enabled htx hi hn⟩, fun _ => runMove_txSlot_of_not_due⟩

/-- Settles O42 (R186, R132, decisions D7, D21): completion is the signal in the state with the transmitter freed, which
in `Data` is the expected one. -/
theorem txDoneSignalsCompletion : Obligations.TxDoneSignalsCompletion := by
  refine ⟨fun s tn htx hn => ⟨runMove_txDone_of_due htx hn, fun hfs => ?_⟩, fun s => runMove_txDone_of_not_due⟩
  calc runMove .txDone s
      = exec .txComplete (finishTransmit s) := runMove_txDone_of_due htx hn
    _ = .next { finishTransmit s with fs := .idle } := txCompleteEndsFrame (finishTransmit s) hfs

/-! ### Starting and stopping the transmitter -/

theorem busy_of_tx_ne_idle {s : State} (h : s.tx ≠ .idle) : busy s = true :=
  (Bool.not_eq_false _).mp (mt busy_eq_false.mp h)

/-- Settles O39 (R183, decision D25): an idle transmitter is started, a busy one refuses. -/
theorem transmitNeedsIdleTransmitter : Obligations.TransmitNeedsIdleTransmitter := fun _ =>
  ⟨fun htx => transmitBuffer_next.mpr ⟨htx, rfl⟩, fun htx => if_pos (busy_of_tx_ne_idle htx)⟩

/-- On a busy transmitter `ABORT` logs itself (R184). -/
theorem abortTransmit_of_busy {s : State} (h : s.tx ≠ .idle) :
    abortTransmit s = { s with tx := .idle, wire := s.wire ++ [.abort s.now] } := by
  rw [abortTransmit_eq, if_pos (busy_of_tx_ne_idle h)]

/-- On an idle transmitter `ABORT` does nothing (R184). -/
theorem abortTransmit_of_idle {s : State} (h : s.tx = .idle) : abortTransmit s = s := by
  rw [abortTransmit_eq, if_neg (by simp [busy_eq_false.mpr h]), ← h]

/-- Settles O40 (R184, decision D5): after `ABORT` the transmitter is idle, so neither of its steps is due at any time. -/
theorem abortCancelsTransmission : Obligations.AbortCancelsTransmission := by
  refine fun s => ⟨fun htx => ?_, fun htx => ?_, fun t h n => ?_⟩
  · rw [exec_abort, abortTransmit_of_busy htx]
  · rw [exec_abort, abortTransmit_of_idle htx]
  · obtain rfl := Host.Outcome.next.inj h
    have hidle : ∀ i tn, (abortTransmit s).tx ≠ .busy i tn := by simp
    exact ⟨runMove_txSlot_of_not_due fun i tn htx => absurd htx (hidle i tn),
      runMove_txDone_of_not_due fun tn htx => absurd htx (hidle 513 tn)⟩

/-! ### A slot on the line -/

/-- The start bit (R91, log 16). -/
theorem slotBits_start (b : Byte) : (slotBits b).getD 0 .high = .low := rfl

/-- The data bits, the least significant first (R91, log 16). -/
theorem slotBits_data (b : Byte) {k : Nat} (hk : k < 8) : (slotBits b).getD (k + 1) .high = levelOf (b.getLsbD k) := by
  interval_cases k <;> rfl

/-- The two stop bits, and the idle line after them (R91). -/
theorem slotBits_rest (b : Byte) {j : Nat} (hj : 9 ≤ j) : (slotBits b).getD j .high = .high := by
  obtain ⟨k, rfl⟩ := Nat.exists_eq_add_of_le' hj
  match k with
  | 0 => rfl
  | 1 => rfl
  | k + 2 => rfl

/-- `n` microseconds after a slot has started, the line is at bit `n / 4` of its byte; after its 44 microseconds that is
past the last bit, and the line idles (R187). -/
theorem lineLevel_startSlot {i : Fin 514} (hi : i.val ≤ 512) {s : State} (hlm : s.lm = .uart) (n : Nat) :
    lineLevel { startSlot i hi s with now := s.now + n } = (slotBits (readTb s i.val)).getD (n / 4) .high := by
  rw [lineLevel_of_uart_busy (s := { startSlot i hi s with now := s.now + n }) hlm (startSlot_tx i hi s)]
  have hbit : s.now + n - (s.now + 44 - 44) = n := by omega
  by_cases hn : n < 44
  · rw [if_pos ⟨Nat.le_add_left 1 i.val, Nat.add_lt_add_left hn s.now⟩, hbit]
    rfl
  · rw [if_neg fun h => hn (Nat.lt_of_add_lt_add_left h.2), slotBits_rest _ (by omega)]

/-- Settles O43 (R187, R91, log 16): `lineLevel_startSlot` reads the bits of the slot off one after the other. -/
theorem lineCarriesSlotBits : Obligations.LineCarriesSlotBits := by
  intro s t i tn htx hlm hrun
  obtain ⟨j, tn', hj, htx', -, rfl⟩ := txSlot_next hrun
  obtain ⟨rfl, -⟩ := Transmitter.busy.inj (htx.symm.trans htx')
  refine ⟨fun n hn => ?_, fun k n hk hn => ?_, fun n hn => ?_⟩
  · rw [startSlot_now, lineLevel_startSlot hj hlm, Nat.div_eq_of_lt hn, slotBits_start]
  · have hbit : (4 * (k + 1) + n) / 4 = k + 1 := by omega
    rw [startSlot_now, Nat.add_assoc, lineLevel_startSlot hj hlm, hbit, slotBits_data _ hk, levelOf]
  · rw [startSlot_now, lineLevel_startSlot hj hlm, slotBits_rest _ (by omega)]

end Sys2Proof.Machine
end

section
/-! SUPPORT. Who may present what (spec/60_exceptions.md R212): one lemma per context, and the refusal of every other
call. -/

namespace Sys2Proof.Machine

theorem runRequest_of_wrongContext {c : Context} {w : RequestWord} {i : Instr} (hw : decode w = .op i)
    (hc : mayRequest c i = false) (s : State) : runRequest c w s = .refused .wrongContext := by
  simp [runRequest, hw, hc]

theorem mayRequest_driverLoop_iff {i : Instr} :
    mayRequest .driverLoop i = true ↔ classOf i = .producer ∨ i = .tick := by
  cases i <;> simp [mayRequest, classOf]

theorem mayRequest_environment_iff {i : Instr} :
    mayRequest .environment i = true ↔ i = .reset ∨ i = .timerExpired ∨ i = .txComplete := by
  cases i <;> simp [mayRequest, classOf]

theorem mayRequest_commandPort_iff {i : Instr} :
    mayRequest .commandPort i = true ↔ classOf i = .timing ∨ classOf i = .line := by
  refine ⟨classOf_of_commandPort, ?_⟩
  rintro (hi | hi) <;> simp [mayRequest, hi]

/-- A signal context presents nothing on its own (decision D30): its agent's step delivers the signal. -/
theorem mayRequest_signalContext (i : Instr) :
    mayRequest .timerSignal i = false ∧ mayRequest .transmitSignal i = false := by
  unfold mayRequest
  cases classOf i <;> exact ⟨rfl, rfl⟩

/-- Settles O8 (R212, decision D30): the request is refused before the state is looked at; then context by context. -/
theorem wrongContextRefused : Obligations.WrongContextRefused :=
  ⟨fun _ _ _ s hw hc => runRequest_of_wrongContext hw hc s, fun i =>
    ⟨mayRequest_driverLoop_iff, (mayRequest_signalContext i).1, (mayRequest_signalContext i).2,
      mayRequest_environment_iff, mayRequest_commandPort_iff⟩⟩

end Sys2Proof.Machine
end

section
/-! SUPPORT. The errors a producer operation reports (spec/60_exceptions.md R201, R202): the address check alone decides
the report, and no response carries any other error. -/

namespace Sys2Proof.Machine

/-- The address operand that an operation checks (R84 (1)). -/
def checkedAddress : Instr → Option Int
  | .set a _ => some a
  | .get a => some a
  | .blendOne a _ _ _ => some a
  | _ => none

theorem checkedAddress_eq_some {i : Instr} {a : Int} : checkedAddress i = some a ↔
    (∃ v, i = .set a v) ∨ i = .get a ∨ ∃ r g b, i = .blendOne a r g b := by
  cases i <;> simp [checkedAddress]

theorem writeChannel_invalidAddress_iff {a : Int} {v : Byte} {s : State} :
    (writeChannel a v s).response = some .invalidAddress ↔ a < 1 ∨ 512 < a := by
  rw [← validAddress_eq_false, writeChannel]
  cases ha : validAddress a
  · simp [atChannel_invalid ha]
  · simp [atChannel_valid ha]

theorem exec_get_invalidAddress_iff {a : Int} {s t : State} (h : exec (.get a) s = .next t) :
    t.response = some .invalidAddress ↔ a < 1 ∨ 512 < a := by
  rw [exec_get_response h, ← validAddress_eq_false, ← Bool.not_eq_true, validAddress_iff]
  split <;> simp [*]

/-- A producer operation reports `InvalidAddress` exactly when its address check fails (R201). -/
theorem exec_invalidAddress_iff {i : Instr} {s t : State} (hi : classOf i = .producer) (h : exec i s = .next t) :
    t.response = some .invalidAddress ↔ ∃ a : Int, (a < 1 ∨ 512 < a) ∧ checkedAddress i = some a := by
  cases i with
  | set a v =>
    obtain rfl := Host.Outcome.next.inj ((exec_set_eq_writeChannel a v s).symm.trans h)
    simp [writeChannel_invalidAddress_iff, checkedAddress]
  | blendOne a r g b =>
    obtain rfl := Host.Outcome.next.inj ((exec_blendOne_eq_writeChannel a r g b s).symm.trans h)
    simp [writeChannel_invalidAddress_iff, checkedAddress]
  | get a => simp [exec_get_invalidAddress_iff h, checkedAddress]
  | setAll v =>
    obtain rfl := Host.Outcome.next.inj h
    simp [checkedAddress]
  | blendAll r g b =>
    obtain rfl := Host.Outcome.next.inj h
    simp [checkedAddress]
  | _ => cases hi

/-- A clamped value is no error (R202). -/
theorem responseError_ne_outOfRangeValue (r : Response) : responseError r ≠ some .outOfRangeValue := by
  cases r <;> simp [responseError]

/-- Settles O14 (R201, R202, decision D18): the report is the failed address check, and a producer operation touches
neither fault record. -/
theorem invalidAddressReportedExactly : Obligations.InvalidAddressReportedExactly := by
  intro i s t hi h
  obtain ⟨m, r, hexec, -⟩ := exec_producer hi s
  have hreport := exec_invalidAddress_iff hi h
  obtain rfl := Host.Outcome.next.inj (hexec.symm.trans h)
  simp only [checkedAddress_eq_some] at hreport
  exact ⟨hreport, rfl, rfl, r, rfl, responseError_ne_outOfRangeValue r⟩

end Sys2Proof.Machine
end

section
/-! SUPPORT. The recovered faults (spec/60_exceptions.md R203, R204, R209, R211): when the watchdog and the two signals
enter `RECOVER`, and that an event which counts a fault does nothing else. -/

namespace Sys2Proof.Machine

open Sys2Proof.Safety

/-! ### `RECOVER` -/

/-- A choice by `BUSY` as a choice by `TX`. -/
theorem ite_busy {α : Type} (s : State) (x y : α) :
    (if busy s = true then x else y) = if s.tx = .idle then y else x := by
  simp only [← busy_eq_false, ← Bool.not_eq_true, ite_not]

/-- `RECOVER` as one record update, the logged abort by the state of the transmitter (R133). -/
theorem recover_eq_record (c : FaultCause) (s : State) : recover c s =
    { s with
      flog := s.flog ++ [(c, s.fs)], tmr := .disarmed, tx := .idle, fs := .idle, fc := s.fc + 1
      wire := if s.tx = .idle then s.wire else s.wire ++ [.abort s.now] } := by
  rw [recover_eq, ite_busy]

/-! ### The watchdog -/

/-- A stalled frame is recovered (R130, R204). -/
theorem tickWith_of_stalled {p : Params} {s : State} (hfs : s.fs ≠ .idle) (hst : stalled p s = true) :
    tickWith p s = recover .stalledFrame s := by
  rw [tickWith_eq_ite, if_neg hfs, if_pos hst]

/-- The watchdog's condition for a finite stall time (decision D11). -/
theorem stalled_of_limit {p : Params} {limit : Nat} (hp : p.tStallUs = some limit) (s : State) :
    stalled p s = decide (limit < s.now - s.fst) := by
  simp [stalled, exceeds, hp]

/-- With an infinite stall time no frame stalls (decision D11). -/
theorem stalled_of_noLimit {p : Params} (hp : p.tStallUs = none) (s : State) : stalled p s = false := by
  simp [stalled, exceeds, hp]

/-- Settles O23 (R204, R130, decisions D5, D6, D10, D11): outside `Idle` the watchdog's condition decides between
`RECOVER` and nothing. -/
theorem watchdogRecoversStalledFrame : Obligations.WatchdogRecoversStalledFrame := by
  refine ⟨exec_tick, fun p s limit hfs hp => ⟨fun hlate => ?_, fun hintime => ?_⟩, fun p s hfs hp => ?_⟩
  · rw [tickWith_of_stalled hfs (by rw [stalled_of_limit hp, decide_eq_true hlate]), recover_eq_record]
  · exact tickWith_of_not_stalled hfs (by rw [stalled_of_limit hp, decide_eq_false (Nat.not_lt_of_le hintime)])
  · exact tickWith_of_not_stalled hfs (stalled_of_noLimit hp s)

/-! ### Unexpected signals -/

/-- `TIMER_EXPIRED` is unexpected in `Idle` and `Data` (R131, R203). -/
theorem timerExpiredWith_of_unexpected (p : Params) {s : State} (hfs : s.fs = .idle ∨ s.fs = .data) :
    timerExpiredWith p s = .next (recover .unexpectedSignal s) := by
  rw [timerExpiredWith_eq_ite]
  rcases hfs with hfs | hfs <;> rw [if_neg (by simp [hfs]), if_neg (by simp [hfs])]

/-- `TX_COMPLETE` is unexpected outside `Data` (R132, R203). -/
theorem txCompleted_of_unexpected {s : State} (hfs : s.fs ≠ .data) : txCompleted s = recover .unexpectedSignal s := by
  rw [txCompleted_eq_ite, if_neg hfs]

/-- Settles O27 (R203, R133, decisions D5, D6): both signals recover where they are unexpected. -/
theorem unexpectedSignalRecovers : Obligations.UnexpectedSignalRecovers := by
  refine fun s => ⟨fun hfs => ?_, fun hfs => ?_⟩
  · rw [exec_timerExpired, timerExpiredWith_of_unexpected _ hfs, recover_eq_record]
  · have hne : s.fs ≠ .data := by rcases hfs with hfs | hfs | hfs <;> simp [hfs]
    rw [exec_txComplete, txCompleted_of_unexpected hne, recover_eq_record]

/-! ### Precise faults -/

/-- An event of the frame-state machine that counts a fault is a `RECOVER` and nothing else (R209). -/
theorem exec_frame_eq_recover {i : Instr} {s t : State} (hi : classOf i = .frame) (h : exec i s = .next t)
    (hfc : t.fc ≠ s.fc) : ∃ c, t = recover c s := by
  rcases eq_tick_or_signal_of_frame hi with rfl | rfl | rfl
  · obtain rfl := Host.Outcome.next.inj h
    rcases tickWith_cases Config.params s with ⟨-, -, ht⟩ | ⟨-, -, ht⟩ | ht
    · exact absurd (congrArg State.fc ht) hfc
    · exact ⟨_, ht⟩
    · exact absurd (congrArg State.fc ht) hfc
  · rcases timerExpiredWith_next h with ⟨-, rfl⟩ | ⟨-, -, rfl⟩ | ⟨-, ht⟩
    · exact absurd rfl hfc
    · exact absurd rfl hfc
    · exact ⟨_, ht⟩
  · obtain rfl := Host.Outcome.next.inj h
    rcases txCompleted_cases s with ⟨-, ht⟩ | ⟨-, ht⟩
    · exact absurd (congrArg State.fc ht) hfc
    · exact ⟨_, ht⟩

/-- Settles O28 (R209): the faulting event is `RECOVER`, field by field. -/
theorem faultsArePrecise : Obligations.FaultsArePrecise := by
  intro i s t hi h hfc
  obtain ⟨c, rfl⟩ := exec_frame_eq_recover hi h hfc
  exact ⟨c, rfl, recover_cb c s, recover_tb c s, recover_fst c s, recover_now c s, recover_lm c s, recover_tmr c s,
    recover_tx c s, recover_fs c s, recover_fc c s, recover_flog c s⟩

/-- Settles O32 (R211): `RECOVER` leaves the machine in `Idle` with the transmitter idle, where a `TICK` starts a frame,
and keeps the time and the Channel Buffer that the frame is made from. -/
theorem tickAfterFaultStartsFrame : Obligations.TickAfterFaultStartsFrame := by
  intro i s t hi h hfc
  obtain ⟨c, rfl⟩ := exec_frame_eq_recover hi h hfc
  have hstart : tickWith Config.params (recover c s) = startFrame Config.params (recover c s) :=
    tickWith_of_rest Config.params (recover_fs c s) (recover_tx c s)
  refine ⟨startFrame Config.params (recover c s), by rw [exec_tick, hstart], rfl, rfl, ?_, rfl, fun j h1 h512 => ?_⟩
  · rw [startFrame_tmr, recover_now]
  · rw [readTb_startFrame, if_pos ⟨h1, h512⟩, readCb, recover_cb, readCb]

end Sys2Proof.Machine
end

section
/-! SUPPORT. What consistency (spec/10_state.md R37) gives the agents: one genuine signal at a time
(spec/60_exceptions.md R207), and no agent that is blocked (R211, R217). -/

namespace Sys2Proof.Safety

open Sys2Proof.Machine

section Agents
variable {s : State} (h : Consistent s)
include h

/-- While a countdown runs, nothing is sent (I1 to I3). -/
theorem Consistent.txIdle_of_armed {d : Nat} (htmr : s.tmr = .armed d) : s.tx = .idle := by
  rcases h.counting htmr with hfs | hfs
  · exact h.breakSilent hfs
  · exact h.markSilent hfs

/-- The timer's signal is handled in every consistent state: the one `TRANSMIT` it issues finds the transmitter idle
(I2, R183). -/
theorem exists_timerExpiredWith_next (p : Params) : ∃ t, timerExpiredWith p s = .next t := by
  cases hfs : s.fs with
  | idle => exact ⟨_, timerExpiredWith_of_unexpected p (.inl hfs)⟩
  | brk => exact ⟨_, timerExpiredWith_of_brk p hfs⟩
  | mark =>
    have hsilent : ¬ busy s = true := by simp [busy_eq_false.mpr (h.markSilent hfs)]
    exact ⟨_, (timerExpiredWith_of_mark p hfs).trans (if_neg hsilent)⟩
  | data => exact ⟨_, timerExpiredWith_of_unexpected p (.inr hfs)⟩

/-- An operation of an agent completes in every consistent state. -/
theorem exists_exec_next {c : Context} {i : Instr} (hc : c ≠ .commandPort) (hi : mayRequest c i = true) :
    ∃ t, exec i s = .next t := by
  rcases classOf_of_mayRequest hc hi with hi | hi | hi
  · obtain rfl := eq_reset_of_system hi
    exact ⟨_, exec_reset s⟩
  · obtain ⟨m, r, hexec, -⟩ := exec_producer hi s
    exact ⟨_, hexec⟩
  · rcases eq_tick_or_signal_of_frame hi with rfl | rfl | rfl
    · exact ⟨_, exec_tick s⟩
    · exact exists_timerExpiredWith_next h Config.params
    · exact ⟨_, exec_txComplete s⟩

theorem exists_expire_next (he : expireEnabled s = true) : ∃ t, runMove .expire s = .next t := by
  obtain ⟨t, ht⟩ := exists_timerExpiredWith_next (consistent_disarmTimer h) Config.params
  exact ⟨t, (if_pos he).trans ht⟩

end Agents

/-- Settles O37 (R207): the timer's signal needs a running countdown, the completion signal a busy transmitter. -/
theorem oneGenuineSignalAtATime : Obligations.OneGenuineSignalAtATime := by
  rintro s h ⟨he, hd⟩
  obtain ⟨d, htmr, -⟩ := expireEnabled_iff.mp he
  obtain ⟨tn, hbusy, -⟩ := doneEnabled_iff.mp hd
  simp [h.txIdle_of_armed htmr] at hbusy

/-- Before the deadline the next microsecond does not pass it, whatever the jitter bound (R164, R165). -/
theorem runMove_advance_one {s : State} (he : ¬ expireEnabled s = true) :
    runMove (.advance 1) s = .next { s with now := s.now + 1 } := by
  have hen : advanceEnabled Config.params 1 s = true := by
    refine advanceEnabled_iff.mpr ⟨Nat.le_refl 1, fun d j htmr _ => ?_⟩
    have hlt : ¬ d ≤ s.now := fun hd => he (expireEnabled_iff.mpr ⟨d, htmr, hd⟩)
    omega
  exact if_pos hen

/-- Settles O55 (R211, R217): an agent's operation completes, and its word runs it; an enabled step is its agent's; and
where the timer's signal is not due, time may pass. -/
theorem agentsAreNeverBlocked : Obligations.AgentsAreNeverBlocked := by
  intro s h
  refine ⟨fun c i hc hi => ?_, exists_expire_next h, fun hslot => ?_, fun hdone => ?_, ?_⟩
  · obtain ⟨t, hexec⟩ := exists_exec_next h hc hi
    exact ⟨t, hexec, fun w hw => (runRequest_op hw hi s).trans hexec⟩
  · obtain ⟨i, tn, htx, hle, hn⟩ := slotEnabled_iff.mp hslot
    exact ⟨_, txSlot_of_enabled htx hle hn⟩
  · obtain ⟨tn, htx, hn⟩ := doneEnabled_iff.mp hdone
    exact ⟨_, runMove_txDone_of_due htx hn⟩
  · exact or_iff_not_imp_left.mpr runMove_advance_one

end Sys2Proof.Safety
end

section
/-! SUPPORT. The eager schedule of one frame (scenario S1 of spec/95_test_vectors.md, R246 with all lateness zero): what its
three parts lead to. The frame start with its two countdowns ends at the start of `Data`; the slots, by induction on how many
have been sent, each start as the one before it is over; the completion ends the frame. -/

namespace Sys2Proof.Safety

open Sys2Proof.Machine

/-! ### Waiting for what is due -/

theorem runMoves_cons_of_next {m : Move} {s t : State} (h : runMove m s = .next t) (ms : List Move) :
    runMoves (m :: ms) s = runMoves ms t := by
  rw [runMoves_cons, h, onNext_of_next]

theorem runMoves_append_of_next {ms : List Move} {s t : State} (h : runMoves ms s = .next t) (ns : List Move) :
    runMoves (ms ++ ns) s = runMoves ns t := by
  rw [runMoves_append, h, onNext_of_next]

/-- Time may pass by `n` when no timer is armed for a moment before that. -/
theorem runMove_advance_of_mayWait_add {n : Nat} {s : State} (hw : MayWaitUntil (s.now + n) s) (hn : 0 < n) :
    runMove (.advance n) s = .next (passTime n s) := by
  simpa using runMove_advance_of_mayWait hw (by omega)

/-- A countdown waited for to its deadline delivers the timer's signal there (R162, R165). -/
theorem runMoves_countdown {d : Nat} {s t : State} (htmr : s.tmr = .armed (s.now + d)) (hd : 0 < d)
    (hsignal : exec .timerExpired (disarmTimer (passTime d s)) = .next t) (ms : List Move) :
    runMoves (.advance d :: .expire :: ms) s = runMoves ms t := by
  have hdue : runMove .expire (passTime d s) = .next t :=
    (runMove_expire_of_due (s := passTime d s) htmr (Nat.le_refl _)).trans hsignal
  rw [runMoves_cons_of_next (runMove_advance_of_mayWait_add (.inr htmr) hd), runMoves_cons_of_next hdue]

/-! ### From `Idle` to the start of `Data` -/

/-- The start of `Mark` in a frame that started in `s`, its break having ended at the deadline. -/
def markStart (p : Params) (s : State) : State :=
  { startFrame p s with
    fs := .mark, tmr := .armed (s.now + p.tBreakUs + p.tMabUs), lm := .uart, now := s.now + p.tBreakUs
    wire := s.wire ++ [.low s.now, .high (s.now + p.tBreakUs), .uartIdle (s.now + p.tBreakUs)] }

/-- The start of `Data` in that frame, its mark having ended at the deadline. -/
def dataStart (p : Params) (s : State) : State :=
  { markStart p s with
    fs := .data, tmr := .disarmed, now := s.now + p.tBreakUs + p.tMabUs
    tx := .busy 0 (s.now + p.tBreakUs + p.tMabUs) }

/-- The Transmit Buffer then holds the snapshot (R59). -/
theorem readTb_dataStart (p : Params) (s : State) {i : Nat} (hi : i < 513) :
    readTb (dataStart p s) i = if i = 0 then Config.startCode else readCb s i := by
  rw [show readTb (dataStart p s) i = readTb (startFrame p s) i from rfl, readTb_startFrame]
  by_cases h0 : i = 0
  · simp [h0, Config.startCode]
  · rw [if_pos (by omega), if_neg h0]

/-- The driver loop's `TICK` in `Idle` with the transmitter idle (R130, R212). -/
theorem runMove_tick_of_rest {s : State} (hfs : s.fs = .idle) (htx : s.tx = .idle) :
    runMove (.request .driverLoop 0x200000000000000000) s = .next (startFrame Config.params s) := by
  have hword : decode 0x200000000000000000 = .op .tick := decode_of_fieldOpc (i := .tick) rfl
  rw [runMove_request, runRequest_op hword rfl, exec_tick, tickWith_of_rest _ hfs htx]

/-- `TICK` and the two countdowns (R130, R131). -/
theorem runMoves_to_dataStart {s : State} (hfs : s.fs = .idle) (htx : s.tx = .idle) :
    runMoves [.request .driverLoop 0x200000000000000000, .advance Config.params.tBreakUs, .expire,
      .advance Config.params.tMabUs, .expire] s = .next (dataStart Config.params s) := by
  have hbreak := tBreakUs_ge Config.params
  have hmab := tMabUs_ge Config.params
  have hmark : exec .timerExpired (disarmTimer (passTime Config.params.tBreakUs (startFrame Config.params s))) =
      .next (markStart Config.params s) := by
    rw [timerExpiredEndsBreak _ rfl]
    simp [markStart]
  rw [runMoves_cons_of_next (runMove_tick_of_rest hfs htx), runMoves_countdown (startFrame_tmr ..) (by omega) hmark,
    runMoves_countdown (s := markStart Config.params s) rfl (by omega) (timerExpiredStartsTransmission.1 _ rfl htx),
    runMoves_nil]
  rfl

/-! ### The slots -/

/-- `s` after its first `n` slots, which started one after the other as early as R185 allows. -/
def slotsSent (n : Fin 514) (s : State) : State :=
  { s with
    tx := .busy n (s.now + Config.tSlotUs * n), now := s.now + Config.tSlotUs * n
    wire := s.wire ++ (List.range n).map fun i => .slot (s.now + Config.tSlotUs * i) i (readTb s i) }

theorem slotsSent_zero {s : State} (htx : s.tx = .busy 0 s.now) : slotsSent 0 s = s := by
  simp [slotsSent, ← htx]

/-- The next slot, and the time it takes. -/
theorem slotsSent_next {n : Fin 514} (hn : n.val ≤ 512) (s : State) :
    passTime Config.tSlotUs (startSlot n hn (slotsSent n s)) = slotsSent (nextIndex n hn) s := by
  simp [passTime, startSlot_eq, slotsSent, nextIndex, readTb, List.range_succ, Nat.mul_succ, Nat.add_assoc]

/-- Sending a slot and waiting for its end (R185, R165). -/
theorem runMoves_slot {n : Fin 514} (hn : n.val ≤ 512) {s : State} (htmr : s.tmr = .disarmed) :
    runMoves [.txSlot, .advance Config.tSlotUs] (slotsSent n s) = .next (slotsSent (nextIndex n hn) s) := by
  have hslot : runMove .txSlot (slotsSent n s) = .next (startSlot n hn (slotsSent n s)) :=
    txSlot_of_enabled (s := slotsSent n s) rfl hn (Nat.le_refl _)
  have hwait : runMove (.advance Config.tSlotUs) (startSlot n hn (slotsSent n s)) =
      .next (slotsSent (nextIndex n hn) s) :=
    slotsSent_next hn s ▸ runMove_advance_of_mayWait_add (.inl htmr) (by decide)
  rw [runMoves_cons_of_next hslot, runMoves_cons_of_next hwait, runMoves_nil]

/-- The first `n` slots, by induction on `n`. -/
theorem runMoves_slots {s : State} (htx : s.tx = .busy 0 s.now) (htmr : s.tmr = .disarmed) (n : Nat) (hn : n < 514) :
    runMoves (List.replicate n [Move.txSlot, Move.advance Config.tSlotUs]).flatten s = .next (slotsSent ⟨n, hn⟩ s) := by
  induction n with
  | zero => exact congrArg Host.Outcome.next (slotsSent_zero htx).symm
  | succ n ih =>
    rw [List.replicate_succ', List.flatten_append, runMoves_append_of_next (ih (by omega)), List.flatten_singleton]
    have hlast : n ≤ 512 := by omega
    exact runMoves_slot (n := ⟨n, by omega⟩) hlast htmr

/-! ### The whole frame -/

/-- The state at the end of the frame that started in `s`. -/
def frameEnd (p : Params) (s : State) : State :=
  enterFrame .idle (finishTransmit (slotsSent 513 (dataStart p s)))

/-- The start of `Data`, the 513 slots, and the completion, which is due as the last slot is over (R186). -/
theorem runMoves_eagerFrame {s : State} (hfs : s.fs = .idle) (htx : s.tx = .idle) :
    runMoves (eagerFrame Config.params) s = .next (frameEnd Config.params s) := by
  have hdone : runMove .txDone (slotsSent 513 (dataStart Config.params s)) = .next (frameEnd Config.params s) :=
    (txDoneSignalsCompletion.1 _ _ rfl (Nat.le_refl _)).2 rfl
  rw [eagerFrame, List.append_assoc, runMoves_append_of_next (runMoves_to_dataStart hfs htx),
    runMoves_append_of_next (runMoves_slots (s := dataStart Config.params s) rfl rfl 513 (by decide))]
  exact (runMoves_cons_of_next hdone []).trans (runMoves_nil _)

/-- The wire log has gained the frame, slot by slot what the Transmit Buffer held. -/
theorem wire_frameEnd (p : Params) (s : State) :
    (frameEnd p s).wire = s.wire ++ frameWire p s.now (readCb s) := by
  have hslots : (List.range 513).map
        (fun i => .slot ((dataStart p s).now + Config.tSlotUs * i) i (readTb (dataStart p s) i)) =
      (List.range 513).map fun i => WireEntry.slot (s.now + p.tBreakUs + p.tMabUs + Config.tSlotUs * i) i
        (if i = 0 then Config.startCode else readCb s i) := by
    refine List.map_congr_left fun i hi => ?_
    rw [readTb_dataStart p s (List.mem_range.mp hi)]
    rfl
  rw [frameWire, ← hslots, ← List.append_assoc, ← List.append_assoc]
  rfl

/-- Settles O50 (scenario S1, R246): `runMoves_eagerFrame` and `wire_frameEnd`; the frame leaves the other registers as the
statement lists them. -/
theorem eagerFrameReachesTheWire : Obligations.EagerFrameReachesTheWire := fun s hfs htx =>
  ⟨frameEnd Config.params s, runMoves_eagerFrame hfs htx, wire_frameEnd Config.params s,
    rfl, rfl, rfl, rfl, rfl, rfl, rfl, rfl, rfl⟩

end Sys2Proof.Safety
end

section
/-! SUPPORT. Proofs about the numeric codes of the state and the errors (spec/30_encoding.md R86 to R88). -/

namespace Sys2Proof.Machine

/-- No two line modes share a code: reading a mode's code back gives the mode (R87). -/
@[simp] theorem lineModeOfCode_lineModeCode (l : LineMode) : lineModeOfCode (lineModeCode l) = some l := by
  cases l with
  | rawLow => rfl
  | rawHigh => rfl
  | uart => rfl

/-- Bit 1 is the multiplexer's select: the UART drives the line exactly when it is set (R87). -/
theorem lineModeCode_select_iff (l : LineMode) : (lineModeCode l).getLsbD 1 = true ↔ l = .uart := by
  cases l with
  | rawLow => decide
  | rawHigh => decide
  | uart => decide

/-- Settles O60 (R86, R87, R88, decisions D14, D16): the numbers stand in the code tables; what is said of every line mode
are the two lemmas above. -/
theorem stateAndErrorCodes : Obligations.StateAndErrorCodes :=
  ⟨rfl, rfl, rfl, rfl, rfl, rfl, rfl, lineModeOfCode_lineModeCode, rfl, lineModeCode_select_iff, rfl, rfl, rfl, rfl, rfl⟩

end Sys2Proof.Machine
end
